-- ==== Sys2Proof/Word.lean ====
section
/-! DEFINITION. The words of the core: bytes, 32-bit bus words, and the sequence types of 00_scope.md R16. -/

namespace Sys2Proof

/-- An 8-bit value (00_scope.md R16, `Bytes`). -/
abbrev Byte := BitVec 8

/-- A register, a bus datum, a bus address or a command word (00_scope.md R14). -/
abbrev Word := BitVec 32

/-- A finite sequence of bits, first bit leftmost (00_scope.md R16, `Bits`); `true` is 1. -/
abbrev Bits := List Bool

end Sys2Proof
end

