-- ==== Sys2Proof/Syntax.lean ====
section
/-! DEFINITION. The syntax of everything the core or its host can be given: the ten commands (30_encoding.md R301),
host bus accesses (20_memory.md R200), the tree an artifact carries (30_encoding.md R332), and the host-program
notation (30_encoding.md R305). -/

namespace Sys2Proof

/-- The ten commands, one constructor per row of spec/opcode_table.json. No command has an operand field
(30_encoding.md R300). -/
inductive Instr where
  /-- 44_pipeline.md R830 -/
  | compress
  /-- 44_pipeline.md R840 -/
  | decompress
  /-- 40_lzw.md R400 -/
  | lzwEncode
  /-- 40_lzw.md R430 -/
  | lzwDecode
  /-- 41_huffman.md R500 -/
  | hufBuild
  /-- 41_huffman.md R530 -/
  | hufCodegen
  /-- 42_bitpack.md R600 -/
  | pack
  /-- 42_bitpack.md R620 -/
  | unpack
  /-- 43_container.md R700 -/
  | serialize
  /-- 43_container.md R710 -/
  | parse
  deriving DecidableEq, Repr

/-- One host bus access (20_memory.md R200). The size is in bytes; sizes and alignments that R213 does not admit can be
written down here and are refused by the machine. -/
inductive Access where
  /-- `HostRead(addr, size)` -/
  | read (addr : Word) (size : Nat)
  /-- `HostWrite(addr, size, value)`; the low `size` bytes of `value` are written. -/
  | write (addr : Word) (size : Nat) (value : Word)
  deriving DecidableEq, Repr

/-- The tree that ARENA holds from ROOT, without its handles: a leaf with its symbol, or an internal node with its
left (bit 0) and right (bit 1) subtrees (00_scope.md R21, 30_encoding.md R332). -/
inductive HufTree where
  | leaf (sym : Nat)
  | node (left right : HufTree)
  deriving DecidableEq, Repr, Inhabited

/-- The thirteen register names, any of which may stand for its offset as an address (10_state.md R102,
30_encoding.md R305). -/
inductive RegName where
  | cfg | ctrl | cmd | status | error | inLen | outLen | tokLen | pkLen | padLen | valid | nodeCount | progress
  deriving DecidableEq, Repr

/-- The windows, whose names stand for their bases (30_encoding.md R305). -/
inductive Window where
  | inp | out | tok | pk
  deriving DecidableEq, Repr

/-- The address of a host access as a program writes it: absolute, a register name, or a window base plus `k`
(30_encoding.md R305). -/
inductive HostAddr where
  | abs (a : Word)
  | reg (r : RegName)
  | win (w : Window) (k : Nat)
  deriving DecidableEq, Repr

/-- The value of a host write: a number, or a name bound by an earlier read (30_encoding.md R305). Names are numbered. -/
inductive HostValue where
  | lit (v : Word)
  | name (n : Nat)
  deriving DecidableEq, Repr

/-- One line of a host program (30_encoding.md R305). Names and labels are numbered. -/
inductive HostLine where
  /-- `WR32`, `WR16`, `WR8` -/
  | wr (size : Nat) (addr : HostAddr) (value : HostValue)
  /-- `RD32`, `RD16`, `RD8` -/
  | rd (size : Nat) (addr : HostAddr) (name : Nat)
  /-- `<label>:` -/
  | label (l : Nat)
  /-- `BNZ <name>, <mask>, <label>` -/
  | bnz (name : Nat) (mask : Word) (l : Nat)
  /-- `BZ <name>, <mask>, <label>` -/
  | bz (name : Nat) (mask : Word) (l : Nat)
  deriving DecidableEq, Repr

end Sys2Proof
end

