-- ==== Sys2Proof/Decode.lean ====
section
/-! DEFINITION. The command word (30_encoding.md section 1): the decoder, total on every word, and the encoder. -/

namespace Sys2Proof

/-- What a command word decodes to: a command, or an illegal word with the OPCODE byte that ERROR.OP records
(30_encoding.md R302, R322). -/
inductive Decoded where
  | cmd (i : Instr)
  | illegal (op : Byte)
  deriving DecidableEq, Repr

/-- OPCODE, bits 7:0 of a command word (30_encoding.md R300). -/
def opcodeField (w : Word) : Byte := w.extractLsb' 0 8

/-- RSVD, bits 31:8 of a command word, which must be 0 (30_encoding.md R300). -/
def rsvdField (w : Word) : BitVec 24 := w.extractLsb' 8 24

/-- The opcode map (30_encoding.md R301); every other value is reserved (R303). -/
def decodeOpcode (op : Byte) : Option Instr :=
  if op = 0x01#8 then some .compress
  else if op = 0x02#8 then some .decompress
  else if op = 0x10#8 then some .lzwEncode
  else if op = 0x11#8 then some .lzwDecode
  else if op = 0x20#8 then some .hufBuild
  else if op = 0x21#8 then some .hufCodegen
  else if op = 0x30#8 then some .pack
  else if op = 0x31#8 then some .unpack
  else if op = 0x40#8 then some .serialize
  else if op = 0x41#8 then some .parse
  else none

/-- The decode function, total over all words (30_encoding.md R302). -/
def decode (w : Word) : Decoded :=
  if rsvdField w = 0#24 then
    match decodeOpcode (opcodeField w) with
    | some i => .cmd i
    | none => .illegal (opcodeField w)
  else .illegal (opcodeField w)

/-- The OPCODE of a command (30_encoding.md R301); ERROR.OP holds it for an error of that command or stage (R322). -/
def opcode : Instr → Byte
  | .compress => 0x01#8
  | .decompress => 0x02#8
  | .lzwEncode => 0x10#8
  | .lzwDecode => 0x11#8
  | .hufBuild => 0x20#8
  | .hufCodegen => 0x21#8
  | .pack => 0x30#8
  | .unpack => 0x31#8
  | .serialize => 0x40#8
  | .parse => 0x41#8

/-- The command word of a command: OPCODE in bits 7:0 and RSVD = 0 (30_encoding.md R300). -/
def encode (i : Instr) : Word := 0#24 ++ opcode i

/-- The 32-bit word that the opcode table's numbering gives: `nbits` bits of `w`, every higher bit 0. -/
def tableWord (nbits w : Nat) : Word := BitVec.ofNat 32 (w % 2 ^ nbits)

/-- What `decode` reads from a word numbered as spec/opcode_table.json numbers it. A command word reaches the core as
one 4-byte write of CMD, with the register's bit numbering (20_memory.md R212), so no byte order comes in. -/
def decodeTableWord (nbits w : Nat) : Option Instr :=
  match decode (tableWord nbits w) with
  | .cmd i => some i
  | .illegal _ => none

end Sys2Proof
end

