-- ==== Sys2Proof/Config.lean ====
section
/-! DEFINITION. What one instance of the core fixes (00_scope.md section 4) and the free values of the model: constants
without a body, so that nothing can be proved about which value they are (93_implementation_defined.md, "any value"). -/

namespace Sys2Proof

/-- The parameters of an instance: CEILING (00_scope.md R9) and the four capacities, which the spec leaves OPEN and
asks a model to take as arguments (R13). State carries them; no step changes them. -/
structure Params where
  ceiling : Nat
  inCap : Nat
  outCap : Nat
  tokCap : Nat
  pkCap : Nat
  deriving DecidableEq, Repr

/-- NODE_CAP, the node-arena capacity (00_scope.md R11). -/
def Params.nodeCap (p : Params) : Nat := 2 * p.ceiling - 1

/-- CODE_LEN_MAX, the greatest code length (00_scope.md R12). -/
def Params.codeLenMax (p : Params) : Nat := p.ceiling - 1

namespace Config

/-- The parameters State.reset has: CEILING = 4096 is this hardware's (00_scope.md R9); the capacities are the largest
the address map allows (20_memory.md R203), DESIGN CHOICE, log 1: no statement rests on them. -/
def thisHardware : Params :=
  ⟨4096, 268435456, 268435456, 134217728, 268435456⟩

/-- The word a read of engine-written state returns while BUSY (20_memory.md R226, 93 U2), by draw number. -/
opaque freeWord : Nat → Word

/-- The byte an unspecified window byte reads as (93 U2, U3, U6), by draw number and byte lane. -/
opaque freeByte : Nat → Nat → Byte

/-- PROGRESS.PERCENT while BUSY, in 0..100 (44_pipeline.md R820, 93 U5), by draw number. -/
opaque freePercent : Nat → Fin 101

/-- What IN_MEM byte `i` holds after a reset until it is written (93 U4), by the reset's draw number and the index. -/
opaque freeInByte : Nat → Nat → Byte

/-- ROOT while it holds no result (93 U3, U4), by draw number. -/
opaque freeRoot : Nat → Nat

/-- The `freq` field of parsed node `i` (10_state.md R122, 93 U8), by draw number and handle. -/
opaque freeFreq : Nat → Nat → BitVec 32

/-- What the engine reads from a TOK_MEM entry that holds no result (93 U3), by draw number and index. Only states
that break 10_state.md R130 read it. -/
opaque freeEntry : Nat → Nat → BitVec 16

/-- The tree the engine finds when ARENA from ROOT holds none (93 U3), by draw number. Only states that break
10_state.md R130 item 2 read it. -/
opaque freeTree : Nat → HufTree

end Config

end Sys2Proof
end

