-- ==== Sys2Proof/Machine/State.lean ====
section
/-! DEFINITION. The state of the core as plain data (10_state.md), the causes of an error, the reasons a step can stop,
and the state after reset (10_state.md R132). -/

namespace Sys2Proof.Machine

/-- A memory: pairs of an index and what it holds, indices strictly rising. An index that is not listed holds no value
of its own: what it reads as is a free value of the operation that reads it (10_state.md R132, 93 U3, U4). -/
abbrev Sparse (α : Type) := List (Nat × α)

/-- A byte memory (IN_MEM, OUT_MEM, PK_MEM). -/
abbrev Memory := List Host.Cell

/-- The canonical form: indices strictly rising. An unlisted index has no value, so no listed entry can equal it. -/
def Sparse.wf {α : Type} : Sparse α → Bool
  | [] => true
  | [_] => true
  | (i, _) :: (j, v) :: rest => decide (i < j) && Sparse.wf ((j, v) :: rest)

/-- The canonical form of a byte memory. -/
def Memory.wf (m : Memory) : Bool := Sparse.wf m

/-- One entry of the node arena (10_state.md R122). Handles are arena indices. -/
inductive Node where
  | leaf (sym : BitVec 16) (freq : BitVec 32)
  | internal (left right : Nat) (freq : BitVec 32)
  deriving DecidableEq, Repr

/-- The four VALID bits (10_state.md R113). -/
structure Valid where
  tok : Bool
  tree : Bool
  codes : Bool
  pk : Bool
  deriving DecidableEq, Repr

/-- The fields of the ERROR register (10_state.md R107). -/
structure ErrorReg where
  code : Byte
  detail : Byte
  op : Byte
  deriving DecidableEq, Repr

/-- The engine is IDLE (STATUS.BUSY = 0) or RUNNING (STATUS.BUSY = 1) the pending command (44_pipeline.md R800, R801). -/
inductive Engine where
  | idle
  | running (op : Instr)
  deriving DecidableEq, Repr

/-- The causes of CORRUPT_STREAM (30_encoding.md R321). -/
inductive Corrupt where
  | truncated | badPad | badTag | badSymbol | dupSymbol | treeShape | lenMismatch
  | unknownCode | midWalk | padNonzero | emptyTokens | badFirst | badCode
  deriving DecidableEq, Repr

/-- The buffers CAPACITY_EXCEEDED can name (60_exceptions.md R903). -/
inductive Buffer where
  | inp | out | tok | pk
  deriving DecidableEq, Repr

/-- What a command raises (00_scope.md R18, 30_encoding.md R320, R321). BAD_COMMAND is not raised by a command: the CMD
write records it (60_exceptions.md R902). -/
inductive Cause where
  | emptyInput
  | corrupt (d : Corrupt)
  /-- the *requires* bits that were 0 (60_exceptions.md R904) -/
  | sequence (missing : Valid)
  /-- PACK met a token with no code (42_bitpack.md R602) -/
  | noCode
  | capacity (b : Buffer)
  deriving DecidableEq, Repr

/-- An error with the command or stage it was detected in (44_pipeline.md R812). -/
structure CmdError where
  cause : Cause
  stage : Instr
  deriving DecidableEq, Repr

/-- What can happen to the core: a host bus access, the engine's turn, or a pulse of the reset input
(20_memory.md R220, 60_exceptions.md R921). -/
inductive Event where
  | host (a : Access)
  | engine
  | hwReset
  deriving DecidableEq, Repr

/-- The state of one instance. -/
structure State where
  /-- the instance's parameters, never changed (00_scope.md R9, R13) -/
  params : Params
  /-- the events still to happen, in order; the model's own field (log 3) -/
  agenda : List Event
  /-- what the bus returned for the host's last read; the model's own field (log 17) -/
  rdata : Word
  /-- names the next free value; the model's own field (log 5) -/
  draws : Nat
  /-- the draw that fixed the unlisted bytes of IN_MEM at the last reset; the model's own field (log 6) -/
  inGen : Nat
  /-- CTRL.IRQ_EN (10_state.md R104) -/
  irqEn : Bool
  /-- STATUS.BUSY and the pending command (10_state.md R106, R128) -/
  engine : Engine
  /-- STATUS.DONE (10_state.md R106) -/
  done : Bool
  /-- STATUS.ERR (10_state.md R106) -/
  err : Bool
  /-- ERROR (10_state.md R107) -/
  error : ErrorReg
  /-- IN_LEN (10_state.md R108) -/
  inLen : BitVec 32
  /-- OUT_LEN (10_state.md R109) -/
  outLen : BitVec 32
  /-- TOK_LEN (10_state.md R110) -/
  tokLen : BitVec 32
  /-- PK_LEN (10_state.md R111) -/
  pkLen : BitVec 32
  /-- PAD_LEN.PAD (10_state.md R112) -/
  padLen : BitVec 3
  /-- VALID (10_state.md R113) -/
  valid : Valid
  /-- NODE_COUNT.COUNT (10_state.md R114) -/
  nodeCount : BitVec 17
  /-- PROGRESS.PERCENT (10_state.md R115) -/
  progress : BitVec 7
  /-- IN_MEM (10_state.md R118) -/
  inMem : Memory
  /-- OUT_MEM (10_state.md R119) -/
  outMem : Memory
  /-- TOK_MEM (10_state.md R120) -/
  tokMem : Sparse (BitVec 16)
  /-- PK_MEM (10_state.md R121) -/
  pkMem : Memory
  /-- ARENA (10_state.md R122) -/
  arena : Sparse Node
  /-- ROOT, a handle (10_state.md R123) -/
  root : Nat
  /-- CODES: a listed symbol has present = 1, and its code is the listed bits, len their number (10_state.md R124) -/
  codes : Sparse Bits
  deriving DecidableEq, Repr

/-- Why the machine stops with a fault: never. No access faults (20_memory.md R217), and no command leaves the core
stuck (60_exceptions.md R906); a command's errors are results in ERROR. The type has no constructor. -/
inductive Fault
  deriving DecidableEq, Repr

/-- Why a step is refused. -/
inductive Refusal where
  /-- Raised by exec's arm of an instruction that has no meaning yet; safe (the model stops). -/
  | notModelled (mnemonic : String)
  /-- Raised by a host access that 20_memory.md R213 does not admit (a register-page access that is not 4 bytes, a size
  other than 1, 2 or 4, or a misaligned access): the spec gives it unspecified behaviour and says that a model refuses
  it (93 U1); safe (the model stops). -/
  | accessNotAdmitted (a : Access)
  deriving DecidableEq, Repr

/-- The core right after reset, for an instance with parameters `p` (10_state.md R132). -/
def State.resetOf (p : Params) : State where
  params := p
  agenda := []
  rdata := 0#32
  draws := 1
  inGen := 0
  irqEn := false
  engine := .idle
  done := false
  err := false
  error := ⟨0#8, 0#8, 0#8⟩
  inLen := 0#32
  outLen := 0#32
  tokLen := 0#32
  pkLen := 0#32
  padLen := 0#3
  valid := ⟨false, false, false, false⟩
  nodeCount := 0#17
  progress := 0#7
  inMem := []
  outMem := []
  tokMem := []
  pkMem := []
  arena := []
  root := Config.freeRoot 0
  codes := []

/-- The core right after reset (10_state.md R132): IDLE, every register 0 but CFG, no valid bit, memories with nothing
listed, ROOT a free value (log 8), the parameters of this hardware (log 1), and nothing on the agenda (log 18). -/
def State.reset : State := State.resetOf Config.thisHardware

end Sys2Proof.Machine
end

