-- ==== Sys2Proof/Machine/Ops.lean ====
section
/-! DEFINITION. The named operations over memories and registers: sparse memories, little-endian integers, the updates a
command makes to its destinations, accepting a command, completing it, the error completion (the trap entry of this
device, 60_exceptions.md section 3), the acknowledgement (its return, R913), and reset. -/

namespace Sys2Proof.Machine

/-! ### Sparse memories -/

/-- What index `i` holds, if it is listed. -/
def Sparse.read {α : Type} : Sparse α → Nat → Option α
  | [], _ => none
  | (j, v) :: rest, i => if j = i then some v else Sparse.read rest i

/-- Store `v` at index `i`, keeping the indices strictly rising. -/
def Sparse.write {α : Type} : Sparse α → Nat → α → Sparse α
  | [], i, v => [(i, v)]
  | (j, u) :: rest, i, v =>
    if i < j then (i, v) :: (j, u) :: rest
    else if i = j then (i, v) :: rest
    else (j, u) :: Sparse.write rest i v

/-- The memory that lists the sequence `l` from index `n` on. -/
def Sparse.listFrom {α : Type} : Nat → List α → Sparse α
  | _, [] => []
  | n, x :: xs => (n, x) :: Sparse.listFrom (n + 1) xs

/-- The memory that lists the sequence `l` from index 0 on, and nothing else. -/
def Sparse.ofList {α : Type} (l : List α) : Sparse α := Sparse.listFrom 0 l

/-! ### Little-endian integers (20_memory.md R210) -/

/-- `n` bytes of `v`, byte `k` being bits `8k+7 : 8k`. -/
def leBytes : Nat → Nat → List Byte
  | 0, _ => []
  | n + 1, v => BitVec.ofNat 8 v :: leBytes n (v / 256)

/-- The integer whose little-endian bytes these are. -/
def leValue : List Byte → Nat
  | [] => 0
  | b :: bs => b.toNat + 256 * leValue bs

/-- Byte `k` of a 32-bit bus value: bits `8k+7 : 8k`. -/
def wordByte (v : Word) (k : Nat) : Byte := v.extractLsb' (8 * k) 8

/-! ### Destinations (10_state.md R117, R131)

A buffer whose valid bit is 0 holds nothing defined (93 U3): the model lists nothing in it. -/

/-- Clear TOK_V, and TOK_LEN with it (10_state.md R117). -/
def State.dropTokens (s : State) : State :=
  { s with tokMem := [], tokLen := 0#32, valid := { s.valid with tok := false } }

/-- Clear TREE_V, and NODE_COUNT with it (10_state.md R117); ROOT is then any value (93 U3). -/
def State.dropTree (s : State) : State :=
  { s with arena := [], root := Config.freeRoot s.draws, nodeCount := 0#17,
           valid := { s.valid with tree := false } }

/-- Clear CODES_V (10_state.md R117). -/
def State.dropCodes (s : State) : State :=
  { s with codes := [], valid := { s.valid with codes := false } }

/-- Clear PK_V, and PK_LEN and PAD_LEN with it (10_state.md R117). -/
def State.dropPacked (s : State) : State :=
  { s with pkMem := [], pkLen := 0#32, padLen := 0#3, valid := { s.valid with pk := false } }

/-- Write the token stream `t` to TOK_MEM and TOK_LEN and set TOK_V. -/
def State.putTokens (s : State) (t : List Nat) : State :=
  { s with tokMem := Sparse.ofList (t.map (BitVec.ofNat 16)), tokLen := BitVec.ofNat 32 t.length,
           valid := { s.valid with tok := true } }

/-- Write a tree's nodes, root and node count, and set TREE_V. -/
def State.putTree (s : State) (arena : List Node) (root count : Nat) : State :=
  { s with arena := Sparse.ofList arena, root := root, nodeCount := BitVec.ofNat 17 count,
           valid := { s.valid with tree := true } }

/-- Write the code table and set CODES_V. -/
def State.putCodes (s : State) (codes : Sparse Bits) : State :=
  { s with codes := codes, valid := { s.valid with codes := true } }

/-- Write packed bytes and the padding length, and set PK_V. -/
def State.putPacked (s : State) (bytes : List Byte) (pad : Nat) : State :=
  { s with pkMem := Sparse.ofList bytes, pkLen := BitVec.ofNat 32 bytes.length, padLen := BitVec.ofNat 3 pad,
           valid := { s.valid with pk := true } }

/-- Write output bytes to OUT_MEM and OUT_LEN; OUT has no valid bit. -/
def State.putOut (s : State) (bytes : List Byte) : State :=
  { s with outMem := Sparse.ofList bytes, outLen := BitVec.ofNat 32 bytes.length }

/-! ### The error codes (30_encoding.md R320, R321) -/

/-- VALID's layout (10_state.md R113): TOK_V bit 0, TREE_V bit 1, CODES_V bit 2, PK_V bit 3. -/
def Valid.bits (v : Valid) : BitVec 4 :=
  BitVec.ofBool v.pk ++ BitVec.ofBool v.codes ++ BitVec.ofBool v.tree ++ BitVec.ofBool v.tok

/-- DETAIL of a CORRUPT_STREAM (30_encoding.md R321). -/
def Corrupt.detail : Corrupt → Byte
  | .truncated => 0x01#8
  | .badPad => 0x02#8
  | .badTag => 0x03#8
  | .badSymbol => 0x04#8
  | .dupSymbol => 0x05#8
  | .treeShape => 0x06#8
  | .lenMismatch => 0x07#8
  | .unknownCode => 0x08#8
  | .midWalk => 0x09#8
  | .padNonzero => 0x0A#8
  | .emptyTokens => 0x0B#8
  | .badFirst => 0x0C#8
  | .badCode => 0x0D#8

/-- DETAIL of a CAPACITY_EXCEEDED (30_encoding.md R321). -/
def Buffer.detail : Buffer → Byte
  | .inp => 0x01#8
  | .out => 0x02#8
  | .tok => 0x03#8
  | .pk => 0x04#8

/-- ERROR.CODE of BAD_COMMAND (30_encoding.md R320). -/
def badCommandCode : Byte := 0x03#8

/-- ERROR.CODE (30_encoding.md R320). -/
def Cause.code : Cause → Byte
  | .emptyInput => 0x01#8
  | .corrupt _ => 0x02#8
  | .sequence _ => 0x04#8
  | .noCode => 0x04#8
  | .capacity _ => 0x05#8

/-- ERROR.DETAIL (30_encoding.md R321); a SEQUENCE_ERROR's is the mask of missing bits in VALID's layout
(60_exceptions.md R904). -/
def Cause.detail : Cause → Byte
  | .emptyInput => 0x00#8
  | .corrupt d => d.detail
  | .sequence missing => 0#4 ++ missing.bits
  | .noCode => 0x10#8
  | .capacity b => b.detail

/-- The ERROR register after an error (44_pipeline.md R812). -/
def CmdError.reg (e : CmdError) : ErrorReg := ⟨e.cause.code, e.cause.detail, opcode e.stage⟩

/-- ERROR.CODE = NONE (30_encoding.md R320, R322). -/
def ErrorReg.none : ErrorReg := ⟨0#8, 0#8, 0#8⟩

/-! ### The life of a command (44_pipeline.md section 1) -/

/-- Accept command `i`: the second branch of the CMD write (44_pipeline.md R801). -/
def State.accept (i : Instr) (s : State) : State :=
  { s with engine := .running i, done := false, err := false, error := ErrorReg.none, progress := 0#7 }

/-- BAD_COMMAND: the first branch of the CMD write, completed at once, nothing else changed (60_exceptions.md R902). -/
def State.badCommand (op : Byte) (s : State) : State :=
  { s with error := ⟨badCommandCode, 0#8, op⟩, done := true, err := true }

/-- Error completion, the trap entry of this device (60_exceptions.md R910): one atomic step. -/
def State.errorCompletion (e : CmdError) (s : State) : State :=
  { s with error := e.reg,
           valid := ⟨false, false, false, false⟩,
           tokLen := 0#32, nodeCount := 0#17, pkLen := 0#32, padLen := 0#3, outLen := 0#32,
           progress := 0#7,
           outMem := [], tokMem := [], pkMem := [], arena := [], codes := [],
           root := Config.freeRoot s.draws,
           engine := .idle, done := true, err := true,
           draws := s.draws + 1 }

/-- Successful completion of a command whose updates give `t` (44_pipeline.md R803). -/
def State.okCompletion (t : State) : State :=
  { t with error := ErrorReg.none, progress := 100#7,
           engine := .idle, done := true, err := false,
           draws := t.draws + 1 }

/-- The completion step (44_pipeline.md R803): `s` is the state the command started from, `r` what it came to. -/
def State.complete (s : State) : Except CmdError State → State
  | .ok t => t.okCompletion
  | .error e => s.errorCompletion e

/-- Acknowledge a completion: STATUS.DONE is cleared, ERR and ERROR stay (60_exceptions.md R913, 44_pipeline.md R805). -/
def State.ack (s : State) : State := { s with done := false }

/-! ### Reset -/

/-- What both resets do (70_reset_and_hazards.md R1000, R1001): every register at its reset value, no micro-state, and
every memory's contents unspecified. The instance's parameters and the host's side of the bus are not the core's to
change. -/
def State.resetCore (s : State) : State :=
  { State.resetOf s.params with
      agenda := s.agenda, rdata := s.rdata, inGen := s.draws, root := Config.freeRoot s.draws,
      draws := s.draws + 1 }

end Sys2Proof.Machine
end

