-- ==== Sys2Proof/Machine/Flags.lean ====
section
/-! DEFINITION. The flags: the *requires* bits of each command (10_state.md R131) and their check
(60_exceptions.md R904), the words in which registers show their fields, and the interrupt line. -/

namespace Sys2Proof.Machine

/-- The *requires* column of 10_state.md R131. -/
def requires : Instr → Valid
  | .compress => ⟨false, false, false, false⟩
  | .decompress => ⟨false, false, false, false⟩
  | .lzwEncode => ⟨false, false, false, false⟩
  | .lzwDecode => ⟨true, false, false, false⟩
  | .hufBuild => ⟨true, false, false, false⟩
  | .hufCodegen => ⟨false, true, false, false⟩
  | .pack => ⟨true, false, true, false⟩
  | .unpack => ⟨false, true, false, true⟩
  | .serialize => ⟨false, true, false, true⟩
  | .parse => ⟨false, false, false, false⟩

/-- The bits of `need` that `have_` lacks. -/
def Valid.missing (need have_ : Valid) : Valid :=
  ⟨need.tok && !have_.tok, need.tree && !have_.tree, need.codes && !have_.codes, need.pk && !have_.pk⟩

/-- No bit is set. -/
def Valid.isNone (v : Valid) : Bool := !(v.tok || v.tree || v.codes || v.pk)

/-- A stage runs its *requires* check first, then its body; an error carries the stage's opcode
(44_pipeline.md R810, R811, R812; 60_exceptions.md R904). -/
def stage (op : Instr) (body : State → Except Cause State) (s : State) : Except CmdError State :=
  let missing := (requires op).missing s.valid
  if missing.isNone then
    match body s with
    | .ok t => .ok t
    | .error c => .error ⟨c, op⟩
  else .error ⟨.sequence missing, op⟩

/-- STATUS.BUSY (10_state.md R106, 44_pipeline.md R800). -/
def State.busy (s : State) : Bool :=
  match s.engine with
  | .idle => false
  | .running _ => true

/-- The interrupt output (60_exceptions.md R920). -/
def State.irq (s : State) : Bool := s.irqEn && s.done

/-- CFG (10_state.md R103): CEILING in bits 16:0. -/
def State.cfgWord (s : State) : Word := (BitVec.ofNat 17 s.params.ceiling).setWidth 32

/-- CTRL (10_state.md R104): IRQ_EN in bit 0; SOFT_RESET reads 0. -/
def State.ctrlWord (s : State) : Word := 0#31 ++ BitVec.ofBool s.irqEn

/-- STATUS (10_state.md R106): BUSY bit 0, DONE bit 1, ERR bit 2. -/
def State.statusWord (s : State) : Word :=
  0#29 ++ BitVec.ofBool s.err ++ BitVec.ofBool s.done ++ BitVec.ofBool s.busy

/-- ERROR (10_state.md R107): CODE bits 7:0, DETAIL 15:8, OP 23:16. -/
def ErrorReg.word (e : ErrorReg) : Word := 0#8 ++ e.op ++ e.detail ++ e.code

/-- VALID (10_state.md R113). -/
def Valid.word (v : Valid) : Word := 0#28 ++ v.bits

end Sys2Proof.Machine
end

