-- ==== Sys2Proof/Machine/Operands.lean ====
section
/-! DEFINITION. The operands of the commands, all implicit (30_encoding.md R300): what a command reads from the
memories, in whole elements (20_memory.md R216). An element that is not listed is a free value. -/

namespace Sys2Proof.Machine

/-- IN_MEM byte `i` (10_state.md R118); a byte not written since the last reset is any value, the same until the next
reset (10_state.md R132, 93 U4). -/
def State.inByte (s : State) (i : Nat) : Byte :=
  (Sparse.read s.inMem i).getD (Config.freeInByte s.inGen i)

/-- `IN_MEM[0..IN_LEN)` (10_state.md R108). -/
def State.inBytes (s : State) : List Byte := (List.range s.inLen.toNat).map s.inByte

/-- TOK_MEM entry `i` (10_state.md R120). -/
def State.token (s : State) (i : Nat) : Nat :=
  ((Sparse.read s.tokMem i).getD (Config.freeEntry s.draws i)).toNat

/-- `TOK_MEM[0..TOK_LEN)` (10_state.md R110). -/
def State.tokens (s : State) : List Nat := (List.range s.tokLen.toNat).map s.token

/-- PK_MEM byte `i` (10_state.md R121). -/
def State.pkByte (s : State) (i : Nat) : Byte :=
  (Sparse.read s.pkMem i).getD (Config.freeByte s.draws i)

/-- `PK_MEM[0..PK_LEN)` (10_state.md R111). -/
def State.pkBytes (s : State) : List Byte := (List.range s.pkLen.toNat).map s.pkByte

/-- OUT_MEM byte `i` (10_state.md R119); no command reads it. -/
def State.outByte (s : State) (i : Nat) : Byte :=
  (Sparse.read s.outMem i).getD (Config.freeByte s.draws i)

/-- `OUT_MEM[0..OUT_LEN)` (10_state.md R109). -/
def State.outBytes (s : State) : List Byte := (List.range s.outLen.toNat).map s.outByte

/-- The tree below handle `h` of the arena, to a depth below `fuel`; none where the arena holds no finite tree there. -/
def readTree (arena : Sparse Node) : Nat → Nat → Option HufTree
  | 0, _ => none
  | fuel + 1, h =>
    match Sparse.read arena h with
    | none => none
    | some (.leaf sym _) => some (.leaf sym.toNat)
    | some (.internal l r _) =>
      match readTree arena fuel l, readTree arena fuel r with
      | some tl, some tr => some (.node tl tr)
      | _, _ => none

/-- ARENA from ROOT as a tree, if it is one (10_state.md R122, R123). A tree of at most NODE_CAP nodes is less than
NODE_CAP + 1 deep. -/
def State.tree? (s : State) : Option HufTree := readTree s.arena s.params.nodeCap s.root

/-- The tree a command works on. With TREE_V = 1 the arena holds one (10_state.md R130 item 2); in a state that breaks
that invariant, which no run reaches, it is a free value (log 14). -/
def State.tree (s : State) : HufTree := s.tree?.getD (Config.freeTree s.draws)

end Sys2Proof.Machine
end

