-- ==== Sys2Proof/Machine/Bus.lean ====
section
/-! DEFINITION. The host bus (20_memory.md): the address map, which accesses are admitted, reads, and writes. -/

namespace Sys2Proof.Machine

/-- Where an address lies (20_memory.md R201): the register page with its offset, a window with its byte offset, or a
reserved range. -/
inductive Region where
  | regPage (off : Nat)
  | inWin (off : Nat)
  | outWin (off : Nat)
  | tokWin (off : Nat)
  | pkWin (off : Nat)
  | reserved
  deriving DecidableEq, Repr

/-- The address map (20_memory.md R201); addresses are relative to the core's base (R200). -/
def regionOf (a : Nat) : Region :=
  if a < 0x1000 then .regPage a
  else if a < 0x10000000 then .reserved
  else if a < 0x20000000 then .inWin (a - 0x10000000)
  else if a < 0x30000000 then .outWin (a - 0x20000000)
  else if a < 0x40000000 then .tokWin (a - 0x30000000)
  else if a < 0x50000000 then .pkWin (a - 0x40000000)
  else .reserved

/-- Which accesses are admitted (20_memory.md R213): sizes 1, 2 and 4, aligned, and 4 bytes only on the register
page. An aligned access of these sizes to a reserved range is admitted (R201 defines it; log 10). -/
def admitted (addr : Word) (size : Nat) : Bool :=
  decide (size = 1 ∨ size = 2 ∨ size = 4) && decide (addr.toNat % size = 0) &&
  match regionOf addr.toNat with
  | .regPage _ => decide (size = 4)
  | _ => true

/-! ### Reads -/

/-- A register read by offset (10_state.md R102). While BUSY the registers the engine writes read as any value,
PROGRESS as any value in 0..100 (20_memory.md R226). Reserved offsets and CMD read 0 (10_state.md R105, R116). -/
def regRead (s : State) (off : Nat) : Word :=
  if off = 0x000 then s.cfgWord
  else if off = 0x004 then s.ctrlWord
  else if off = 0x008 then 0#32
  else if off = 0x00C then s.statusWord
  else if off = 0x010 then s.error.word
  else if off = 0x014 then s.inLen
  else if off = 0x018 then if s.busy then Config.freeWord s.draws else s.outLen
  else if off = 0x01C then if s.busy then Config.freeWord s.draws else s.tokLen
  else if off = 0x020 then if s.busy then Config.freeWord s.draws else s.pkLen
  else if off = 0x024 then if s.busy then Config.freeWord s.draws else s.padLen.setWidth 32
  else if off = 0x028 then if s.busy then Config.freeWord s.draws else s.valid.word
  else if off = 0x02C then if s.busy then Config.freeWord s.draws else s.nodeCount.setWidth 32
  else if off = 0x030 then
    if s.busy then BitVec.ofNat 32 (Config.freePercent s.draws).val else s.progress.setWidth 32
  else 0#32

/-- Byte `off` of a window over an engine-written buffer of `cap` bytes, the first `len` of them defined: 0 at or
beyond the capacity (20_memory.md R202), any value while BUSY (R226) or beyond the length (R206), else what the
buffer holds. -/
def windowByte (s : State) (cap len : Nat) (held : Option Byte) (off lane : Nat) : Byte :=
  if cap ≤ off then 0#8
  else if s.busy then Config.freeByte s.draws lane
  else if len ≤ off then Config.freeByte s.draws lane
  else held.getD (Config.freeByte s.draws lane)

/-- The byte of TOK_MEM at window offset `off`: entry `off / 2`, low byte first (20_memory.md R205). -/
def tokHeld (s : State) (off : Nat) : Option Byte :=
  (Sparse.read s.tokMem (off / 2)).map
    (fun e => if off % 2 = 0 then e.extractLsb' 0 8 else e.extractLsb' 8 8)

/-- The byte a read finds at address `a`, as lane `lane` of its access (20_memory.md R201-R206). The register page is
read by `regRead`. -/
def byteRead (s : State) (a lane : Nat) : Byte :=
  match regionOf a with
  | .regPage _ => 0#8
  | .inWin off => if s.params.inCap ≤ off then 0#8 else s.inByte off
  | .outWin off => windowByte s s.params.outCap s.outLen.toNat (Sparse.read s.outMem off) off lane
  | .tokWin off => windowByte s (2 * s.params.tokCap) (2 * s.tokLen.toNat) (tokHeld s off) off lane
  | .pkWin off => windowByte s s.params.pkCap s.pkLen.toNat (Sparse.read s.pkMem off) off lane
  | .reserved => 0#8

/-- The value of an admitted read: a register, or the bytes of the access, little-endian, zero-extended
(20_memory.md R210, R211). -/
def readValue (s : State) (addr : Word) (size : Nat) : Word :=
  match regionOf addr.toNat with
  | .regPage off => regRead s off
  | _ => BitVec.ofNat 32 (leValue ((List.range size).map (fun k => byteRead s (addr.toNat + k) k)))

/-- A host read: the bus returns the value, and nothing of the core changes (20_memory.md R215). -/
def busRead (s : State) (addr : Word) (size : Nat) : Host.Outcome State Fault Refusal :=
  if admitted addr size then .next { s with rdata := readValue s addr size, draws := s.draws + 1 }
  else .refused (.accessNotAdmitted (.read addr size))

/-! ### Writes -/

/-- A CTRL write (10_state.md R104): bit 1 resets the core, accepted in every state (70_reset_and_hazards.md R1001);
else bit 0 is stored. -/
def writeCtrl (s : State) (v : Word) : State :=
  if v.getLsbD 1 then s.resetCore else { s with irqEn := v.getLsbD 0 }

/-- A CMD write (44_pipeline.md R801). -/
def writeCmd (s : State) (v : Word) : State :=
  if s.busy then s
  else
    match decode v with
    | .illegal op => s.badCommand op
    | .cmd i => s.accept i

/-- A STATUS write (10_state.md R106): bit 1 clears DONE; accepted in any state. -/
def writeStatus (s : State) (v : Word) : State := if v.getLsbD 1 then s.ack else s

/-- An IN_LEN write (10_state.md R108); ignored while BUSY (70_reset_and_hazards.md R1011). -/
def writeInLen (s : State) (v : Word) : State := if s.busy then s else { s with inLen := v }

/-- A register write by offset; read-only and reserved locations ignore it (10_state.md R102, R103, R116). -/
def regWrite (s : State) (off : Nat) (v : Word) : State :=
  if off = 0x004 then writeCtrl s v
  else if off = 0x008 then writeCmd s v
  else if off = 0x00C then writeStatus s v
  else if off = 0x014 then writeInLen s v
  else s

/-- Store one byte into IN_MEM; at or beyond the capacity it is ignored (20_memory.md R202), and while BUSY too (R204,
70_reset_and_hazards.md R1011). -/
def inWrite (s : State) (off : Nat) (b : Byte) : State :=
  if s.busy then s
  else if s.params.inCap ≤ off then s
  else { s with inMem := Sparse.write s.inMem off b }

/-- Store one byte at address `a`: only the IN window takes it (20_memory.md R201, R204, R206). -/
def byteWrite (s : State) (a : Nat) (b : Byte) : State :=
  match regionOf a with
  | .inWin off => inWrite s off b
  | _ => s

/-- Store the first `n` bytes of `v` from address `a` on, byte `k` at `a + k` (20_memory.md R210). -/
def bytesWrite (s : State) (a : Nat) (v : Word) : Nat → State
  | 0 => s
  | n + 1 => byteWrite (bytesWrite s a v n) (a + n) (wordByte v n)

/-- A host write (20_memory.md R201, R213, R215). -/
def busWrite (s : State) (addr : Word) (size : Nat) (v : Word) : Host.Outcome State Fault Refusal :=
  if admitted addr size then
    match regionOf addr.toNat with
    | .regPage off => .next (regWrite s off v)
    | _ => .next (bytesWrite s addr.toNat v size)
  else .refused (.accessNotAdmitted (.write addr size v))

/-- One host access, one indivisible event (20_memory.md R214). -/
def busAccess (s : State) : Access → Host.Outcome State Fault Refusal
  | .read addr size => busRead s addr size
  | .write addr size v => busWrite s addr size v

end Sys2Proof.Machine
end

