-- ==== Sys2Proof/Machine/BitPack.lean ====
section
/-! DEFINITION. The bit packer and bit unpacker (42_bitpack.md): PACK and UNPACK. -/

namespace Sys2Proof.Machine

/-- symbol_to_bits and the concatenation: the tokens' codes in token order; the first token without a code raises
(42_bitpack.md R601-R603). -/
def codeBits (codes : Sparse Bits) : List Nat → Except Cause Bits
  | [] => .ok []
  | x :: xs =>
    match Sparse.read codes x with
    | none => .error .noCode
    | some c =>
      match codeBits codes xs with
      | .error e => .error e
      | .ok rest => .ok (c ++ rest)

/-- The padding length for `n` payload bits, 0..7 (42_bitpack.md R604). -/
def padFor (n : Nat) : Nat := (8 - n % 8) % 8

/-- One byte from eight bits, the first in bit 7 (30_encoding.md R340). -/
def byteOfBits (b7 b6 b5 b4 b3 b2 b1 b0 : Bool) : Byte :=
  BitVec.ofBool b7 ++ BitVec.ofBool b6 ++ BitVec.ofBool b5 ++ BitVec.ofBool b4 ++
  BitVec.ofBool b3 ++ BitVec.ofBool b2 ++ BitVec.ofBool b1 ++ BitVec.ofBool b0

/-- The bytes of a bit sequence whose length is a multiple of 8 (42_bitpack.md R604). -/
def bytesOfBits : Bits → List Byte
  | b7 :: b6 :: b5 :: b4 :: b3 :: b2 :: b1 :: b0 :: rest =>
    byteOfBits b7 b6 b5 b4 b3 b2 b1 b0 :: bytesOfBits rest
  | _ => []

/-- write_with_padding: zero bits on the right to a byte boundary (42_bitpack.md R604). -/
def padBits (b : Bits) : Bits := b ++ List.replicate (padFor b.length) false

/-- The packer as one function (42_bitpack.md R606): the packed bytes and the padding length. -/
def packTokens (codes : Sparse Bits) (pkCap : Nat) (t : List Nat) : Except Cause (List Byte × Nat) :=
  match codeBits codes t with
  | .error e => .error e
  | .ok b =>
    if pkCap < (padBits b).length / 8 then .error (.capacity .pk)
    else .ok (bytesOfBits (padBits b), padFor b.length)

/-- The bits of a byte, bit 7 first (30_encoding.md R340). -/
def bitsOfByte (b : Byte) : Bits :=
  [b.getLsbD 7, b.getLsbD 6, b.getLsbD 5, b.getLsbD 4, b.getLsbD 3, b.getLsbD 2, b.getLsbD 1, b.getLsbD 0]

/-- read_bits: the packed bytes as a bit sequence (42_bitpack.md R621). -/
def bitsOfBytes (pk : List Byte) : Bits := pk.flatMap bitsOfByte

/-- Emit symbol `sym`, unless TOK_CAP tokens are out already (42_bitpack.md R624). -/
def emitToken (tokCap : Nat) (out : List Nat) (sym : Nat) : Except Cause (List Nat) :=
  if out.length = tokCap then .error (.capacity .tok) else .ok (out ++ [sym])

/-- The tree walk over the payload bits (42_bitpack.md R622, R623, R625): `cur` is the node the walk stands at. It
stands at a leaf only when the root is one: then each 0 bit is a token and a 1 bit is unknown. At an internal node each
bit descends, and a leaf reached is emitted and the walk restarts at the root. -/
def walkBits (tokCap : Nat) (root : HufTree) : HufTree → List Nat → Bits → Except Cause (List Nat)
  | cur, out, [] => if cur = root then .ok out else .error (.corrupt .midWalk)
  | .leaf sym, out, b :: bs =>
    if b then .error (.corrupt .unknownCode)
    else
      match emitToken tokCap out sym with
      | .error e => .error e
      | .ok out' => walkBits tokCap root root out' bs
  | .node l r, out, b :: bs =>
    match if b then r else l with
    | .leaf sym =>
      match emitToken tokCap out sym with
      | .error e => .error e
      | .ok out' => walkBits tokCap root root out' bs
    | .node l' r' => walkBits tokCap root (.node l' r') out bs

/-- The unpacker as one function (42_bitpack.md R627): the payload is all but the last `pad` bits (R621), and
consume_padding checks that those are zero (R626). -/
def unpackTokens (tokCap : Nat) (tree : HufTree) (pk : List Byte) (pad : Nat) : Except Cause (List Nat) :=
  let b := bitsOfBytes pk
  let n := b.length - pad
  match walkBits tokCap tree tree [] (b.take n) with
  | .error e => .error e
  | .ok out => if (b.drop n).any id then .error (.corrupt .padNonzero) else .ok out

/-- PACK's updates (42_bitpack.md R600). -/
def packBody (s : State) : Except Cause State :=
  match packTokens s.codes s.params.pkCap s.tokens with
  | .error e => .error e
  | .ok (bytes, pad) => .ok (s.putPacked bytes pad)

/-- UNPACK's updates (42_bitpack.md R620). -/
def unpackBody (s : State) : Except Cause State :=
  match unpackTokens s.params.tokCap s.tree s.pkBytes s.padLen.toNat with
  | .error e => .error e
  | .ok t => .ok (s.putTokens t)

/-- Stage PACK. -/
def stagePack : State → Except CmdError State := stage .pack packBody

/-- Stage UNPACK. -/
def stageUnpack : State → Except CmdError State := stage .unpack unpackBody

/-- PACK (42_bitpack.md R600), run to its completion (44_pipeline.md R803, R810). -/
def execPack (s : State) : Host.Outcome State Fault Refusal := .next (s.complete (stagePack s))

/-- UNPACK (42_bitpack.md R620), run to its completion. -/
def execUnpack (s : State) : Host.Outcome State Fault Refusal := .next (s.complete (stageUnpack s))

end Sys2Proof.Machine
end

