-- ==== Sys2Proof/Machine/Container.lean ====
section
/-! DEFINITION. The container serializer and parser (43_container.md): SERIALIZE and PARSE. -/

namespace Sys2Proof.Machine

/-- The bytes of a tree in pre-order: node, left subtree, right subtree (30_encoding.md R331, R332). -/
def serTree : HufTree → List Byte
  | .leaf sym => 0x01#8 :: leBytes 2 sym
  | .node l r => 0x00#8 :: (serTree l ++ serTree r)

/-- The artifact before the capacity check (43_container.md R701-R703, R705). -/
def artifact (tree : HufTree) (count : Nat) (pk : List Byte) (pad : Nat) : List Byte :=
  leBytes 4 pad ++ leBytes 4 count ++ serTree tree ++ leBytes 8 pk.length ++ pk

/-- The serializer as one function (43_container.md R704, R705). -/
def serializeArtifact (outCap : Nat) (tree : HufTree) (count : Nat) (pk : List Byte) (pad : Nat) :
    Except Cause (List Byte) :=
  let a := artifact tree count pk pad
  if outCap < a.length then .error (.capacity .out) else .ok a

/-- `take(n)` of the parser: the little-endian value of the next `n` bytes and the bytes after them
(43_container.md R711). -/
def takeLe (n : Nat) (rest : List Byte) : Except Cause (Nat × List Byte) :=
  if rest.length < n then .error (.corrupt .truncated) else .ok (leValue (rest.take n), rest.drop n)

/-- The state of the parser's node loop (43_container.md R716): the bytes still to read, the open child slots `need`,
the symbols `seen`, the open internal nodes with whether their left child is filled, and the nodes so far. -/
structure ParseState where
  rest : List Byte
  need : Nat
  seen : List Nat
  stack : List (Nat × Bool)
  arena : List Node
  deriving DecidableEq, Repr

/-- Fill the left child of internal node `h`. -/
def setLeft (arena : List Node) (h i : Nat) : List Node :=
  match arena[h]? with
  | some (.internal _ r f) => arena.set h (.internal i r f)
  | _ => arena

/-- Fill the right child of internal node `h`. -/
def setRight (arena : List Node) (h i : Nat) : List Node :=
  match arena[h]? with
  | some (.internal l _ f) => arena.set h (.internal l i f)
  | _ => arena

/-- Attach node `i` to the innermost open slot (43_container.md R716); the first node, the root, has none. -/
def attach (arena : List Node) (stack : List (Nat × Bool)) (i : Nat) : List Node × List (Nat × Bool) :=
  match stack with
  | [] => (arena, [])
  | (h, false) :: rest => (setLeft arena h i, (h, true) :: rest)
  | (h, true) :: rest => (setRight arena h i, rest)

/-- The node loop's body for one node (43_container.md R714-R716). `freq` gives the unspecified frequency field of a
handle. The children of an internal node are placeholders until they are attached. -/
def parseNode (ceiling : Nat) (freq : Nat → BitVec 32) (p : ParseState) : Except Cause ParseState :=
  let i := p.arena.length
  if p.need = 0 then .error (.corrupt .treeShape)
  else
    match takeLe 1 p.rest with
    | .error e => .error e
    | .ok (tag, rest) =>
      if tag = 0 then
        let (arena, stack) := attach (p.arena ++ [.internal 0 0 (freq i)]) p.stack i
        .ok ⟨rest, p.need + 1, p.seen, (i, false) :: stack, arena⟩
      else if tag = 1 then
        match takeLe 2 rest with
        | .error e => .error e
        | .ok (sym, rest') =>
          if ceiling ≤ sym then .error (.corrupt .badSymbol)
          else if sym ∈ p.seen then .error (.corrupt .dupSymbol)
          else
            let (arena, stack) := attach (p.arena ++ [.leaf (BitVec.ofNat 16 sym) (freq i)]) p.stack i
            .ok ⟨rest', p.need - 1, sym :: p.seen, stack, arena⟩
      else .error (.corrupt .badTag)

/-- The node loop: `n` more nodes (43_container.md R716). -/
def parseNodes (ceiling : Nat) (freq : Nat → BitVec 32) : Nat → ParseState → Except Cause ParseState
  | 0, p => .ok p
  | n + 1, p =>
    match parseNode ceiling freq p with
    | .error e => .error e
    | .ok p' => parseNodes ceiling freq n p'

/-- What the parser loads (43_container.md R721); the root has handle 0. -/
structure Parsed where
  arena : List Node
  root : Nat
  count : Nat
  pk : List Byte
  pad : Nat
  deriving DecidableEq, Repr

/-- The length field and the payload (43_container.md R717-R719). -/
def parsePayload (pkCap pad : Nat) (rest : List Byte) : Except Cause (List Byte) :=
  match takeLe 8 rest with
  | .error e => .error e
  | .ok (len, pk) =>
    if len ≠ pk.length then .error (.corrupt .lenMismatch)
    else if 0 < pad ∧ len = 0 then .error (.corrupt .badPad)
    else if pkCap < len then .error (.capacity .pk)
    else .ok pk

/-- The parser as one function (43_container.md R721), checks in the order of R720. -/
def parseArtifact (params : Params) (freq : Nat → BitVec 32) (a : List Byte) : Except Cause Parsed :=
  match takeLe 4 a with
  | .error e => .error e
  | .ok (pad, rest) =>
    if 7 < pad then .error (.corrupt .badPad)
    else
      match takeLe 4 rest with
      | .error e => .error e
      | .ok (count, rest') =>
        if count = 0 ∨ params.nodeCap < count then .error (.corrupt .treeShape)
        else
          match parseNodes params.ceiling freq count ⟨rest', 1, [], [], []⟩ with
          | .error e => .error e
          | .ok p =>
            if p.need ≠ 0 then .error (.corrupt .treeShape)
            else
              match parsePayload params.pkCap pad p.rest with
              | .error e => .error e
              | .ok pk => .ok ⟨p.arena, 0, count, pk, pad⟩

/-- SERIALIZE's updates (43_container.md R700). -/
def serializeBody (s : State) : Except Cause State :=
  match serializeArtifact s.params.outCap s.tree s.nodeCount.toNat s.pkBytes s.padLen.toNat with
  | .error e => .error e
  | .ok a => .ok (s.putOut a)

/-- PARSE's updates (43_container.md R710). The frequency fields it loads are any value (93 U8). -/
def parseBody (s : State) : Except Cause State :=
  if s.params.inCap < s.inLen.toNat then .error (.capacity .inp)
  else
    match parseArtifact s.params (Config.freeFreq s.draws) s.inBytes with
    | .error e => .error e
    | .ok p => .ok ((s.dropTokens.dropCodes.putTree p.arena p.root p.count).putPacked p.pk p.pad)

/-- Stage SERIALIZE. -/
def stageSerialize : State → Except CmdError State := stage .serialize serializeBody

/-- Stage PARSE. -/
def stageParse : State → Except CmdError State := stage .parse parseBody

/-- SERIALIZE (43_container.md R700), run to its completion (44_pipeline.md R803, R810). -/
def execSerialize (s : State) : Host.Outcome State Fault Refusal := .next (s.complete (stageSerialize s))

/-- PARSE (43_container.md R710), run to its completion. -/
def execParse (s : State) : Host.Outcome State Fault Refusal := .next (s.complete (stageParse s))

end Sys2Proof.Machine
end

