-- ==== Sys2Proof/Machine/Huffman.lean ====
section
/-! DEFINITION. The Huffman tree builder and code table generator (41_huffman.md): HUF_BUILD and HUF_CODEGEN. -/

namespace Sys2Proof.Machine

/-- Count one more occurrence of symbol `x`. -/
def countSymbol (m : Sparse Nat) (x : Nat) : Sparse Nat :=
  Sparse.write m x ((Sparse.read m x).getD 0 + 1)

/-- The frequency of each distinct symbol, symbols ascending (41_huffman.md R511: `S` with `freq`). -/
def frequencies (t : List Nat) : Sparse Nat := t.foldl countSymbol []

/-- An entry of the priority queue (10_state.md R126). -/
structure PqEntry where
  freq : Nat
  seq : Nat
  handle : Nat
  deriving DecidableEq, Repr

/-- The key order of the queue: freq, then seq (41_huffman.md R513). -/
def PqEntry.before (a b : PqEntry) : Bool :=
  decide (a.freq < b.freq) || (decide (a.freq = b.freq) && decide (a.seq < b.seq))

/-- Insert into a queue kept in key order, least first; extract_min is then its head (41_huffman.md R514). -/
def pqInsert (x : PqEntry) : List PqEntry → List PqEntry
  | [] => [x]
  | y :: ys => if x.before y then x :: y :: ys else y :: pqInsert x ys

/-- The leaves in ascending symbol order (41_huffman.md R512). -/
def leafNodes (fr : Sparse Nat) : List Node :=
  fr.map (fun p => .leaf (BitVec.ofNat 16 p.1) (BitVec.ofNat 32 p.2))

/-- The queue's initial contents: leaf `j` has key `(freq, symbol)` and handle `j` (41_huffman.md R512). -/
def initialQueue : Nat → Sparse Nat → List PqEntry
  | _, [] => []
  | j, (sym, f) :: rest => pqInsert ⟨f, sym, j⟩ (initialQueue (j + 1) rest)

/-- The handle of the last entry left in the queue. -/
def queueRoot : List PqEntry → Nat
  | [] => 0
  | e :: _ => e.handle

/-- The merge loop (41_huffman.md R515): pop two, the first becomes the left child; merge `k` has seq CEILING + k and
the next free handle, which is `L + k` (R516). -/
def mergeLoop (ceiling : Nat) : Nat → Nat → List PqEntry → List Node → List Node × Nat
  | fuel + 1, k, a :: b :: rest, arena =>
    mergeLoop ceiling fuel (k + 1)
      (pqInsert ⟨a.freq + b.freq, ceiling + k, arena.length⟩ rest)
      (arena ++ [.internal a.handle b.handle (BitVec.ofNat 32 (a.freq + b.freq))])
  | _, _, q, arena => (arena, queueRoot q)

/-- What the builder makes (41_huffman.md R518). -/
structure Built where
  arena : List Node
  root : Nat
  count : Nat
  deriving DecidableEq, Repr

/-- The builder as one function (41_huffman.md R518); the loop runs `L - 1` times (R515). -/
def hufBuild (ceiling : Nat) (t : List Nat) : Built :=
  let fr := frequencies t
  let r := mergeLoop ceiling fr.length 0 (initialQueue 0 fr) (leafNodes fr)
  ⟨r.1, r.2, 2 * fr.length - 1⟩

/-- tree_walk: every leaf symbol with the branch bits from the root to it, left subtree first
(41_huffman.md R532). -/
def treeWalk : HufTree → Bits → List (Nat × Bits)
  | .leaf sym, p => [(sym, p)]
  | .node l r, p => treeWalk l (p ++ [false]) ++ treeWalk r (p ++ [true])

/-- The codes of a tree: a single leaf has the code "0" (41_huffman.md R530, R531). -/
def treeCodes : HufTree → List (Nat × Bits)
  | .leaf sym => [(sym, [false])]
  | .node l r => treeWalk (.node l r) []

/-- The code table of a tree (41_huffman.md R530): every symbol absent, then every leaf's code written. -/
def codeTable (tree : HufTree) : Sparse Bits :=
  (treeCodes tree).foldl (fun m c => Sparse.write m c.1 c.2) []

/-- HUF_BUILD's updates (41_huffman.md R500, R510). -/
def hufBuildBody (s : State) : Except Cause State :=
  if s.tokens = [] then .error .emptyInput
  else
    let h := hufBuild s.params.ceiling s.tokens
    .ok (s.dropCodes.dropPacked.putTree h.arena h.root h.count)

/-- HUF_CODEGEN's updates (41_huffman.md R530). -/
def hufCodegenBody (s : State) : Except Cause State := .ok (s.putCodes (codeTable s.tree))

/-- Stage HUF_BUILD. -/
def stageHufBuild : State → Except CmdError State := stage .hufBuild hufBuildBody

/-- Stage HUF_CODEGEN. -/
def stageHufCodegen : State → Except CmdError State := stage .hufCodegen hufCodegenBody

/-- HUF_BUILD (41_huffman.md R500), run to its completion (44_pipeline.md R803, R810). -/
def execHufBuild (s : State) : Host.Outcome State Fault Refusal := .next (s.complete (stageHufBuild s))

/-- HUF_CODEGEN (41_huffman.md R530), run to its completion. -/
def execHufCodegen (s : State) : Host.Outcome State Fault Refusal := .next (s.complete (stageHufCodegen s))

end Sys2Proof.Machine
end

