-- ==== Sys2Proof/Machine/Lzw.lean ====
section
/-! DEFINITION. The LZW encoder and decoder (40_lzw.md): LZW_ENCODE and LZW_DECODE.

The dictionary `D : code -> Bytes` is the list of its strings in code order, so the free-code counter `free` is its
length (40_lzw.md R401, R440). -/

namespace Sys2Proof.Machine

/-- dict_seed: the 256 single-byte entries (40_lzw.md R401). -/
def dictSeed : List (List Byte) := (List.range 256).map (fun i => [BitVec.ofNat 8 i])

/-- Insert `wc` under the free code, or, when no code is free, reset the dictionary (40_lzw.md R405, R435). -/
def dictInsertOrReset (ceiling : Nat) (dict : List (List Byte)) (wc : List Byte) : List (List Byte) :=
  if dict.length < ceiling then dict ++ [wc] else dictSeed

/-- `code(s)`, the code of a string of the dictionary (40_lzw.md R402). -/
def dictCode (dict : List (List Byte)) (s : List Byte) : Nat := dict.idxOf s

/-- The encoder's state (40_lzw.md R403): `D`, the running prefix `w`, and the output. -/
structure EncState where
  dict : List (List Byte)
  w : List Byte
  out : List Nat
  deriving DecidableEq, Repr

/-- The encoder's state before the first byte (40_lzw.md R408). -/
def EncState.init : EncState := ⟨dictSeed, [], []⟩

/-- code_emit, and the final flush: emit `code(w)` if `w` is non-empty (40_lzw.md R404, R406, R407). -/
def codeEmit (tokCap : Nat) (e : EncState) : Except Cause EncState :=
  if e.w = [] then .ok e
  else if e.out.length = tokCap then .error (.capacity .tok)
  else .ok { e with out := e.out ++ [dictCode e.dict e.w] }

/-- One input byte: a HIT lengthens `w`; a MISS emits, inserts or resets, and restarts `w` (40_lzw.md R403-R405). -/
def encodeByte (ceiling tokCap : Nat) (e : EncState) (c : Byte) : Except Cause EncState :=
  let wc := e.w ++ [c]
  if wc ∈ e.dict then .ok { e with w := wc }
  else
    match codeEmit tokCap e with
    | .error x => .error x
    | .ok e' => .ok ⟨dictInsertOrReset ceiling e'.dict wc, [c], e'.out⟩

/-- The input bytes in order (40_lzw.md R408). -/
def encodeBytes (ceiling tokCap : Nat) : EncState → List Byte → Except Cause EncState
  | e, [] => .ok e
  | e, c :: cs =>
    match encodeByte ceiling tokCap e c with
    | .error x => .error x
    | .ok e' => encodeBytes ceiling tokCap e' cs

/-- The encoder as one function (40_lzw.md R408). -/
def lzwEncode (ceiling tokCap : Nat) (b : List Byte) : Except Cause (List Nat) :=
  match encodeBytes ceiling tokCap EncState.init b with
  | .error x => .error x
  | .ok e =>
    match codeEmit tokCap e with
    | .error x => .error x
    | .ok e' => .ok e'.out

/-- The decoder's state (40_lzw.md R433): `D`, the previous entry `w`, and the output. -/
structure DecState where
  dict : List (List Byte)
  w : List Byte
  out : List Byte
  deriving DecidableEq, Repr

/-- dict_rebuild, classifying a token: known, KwKwK, or a fault (40_lzw.md R433, R434). -/
def classify (dict : List (List Byte)) (w : List Byte) (k : Nat) : Except Cause (List Byte) :=
  match dict[k]? with
  | some entry => .ok entry
  | none => if k = dict.length then .ok (w ++ w.take 1) else .error (.corrupt .badCode)

/-- One token after the first: classify, check the output capacity, append, insert or reset, advance
(40_lzw.md R433-R437). -/
def decodeToken (ceiling outCap : Nat) (d : DecState) (k : Nat) : Except Cause DecState :=
  match classify d.dict d.w k with
  | .error x => .error x
  | .ok entry =>
    if outCap < d.out.length + entry.length then .error (.capacity .out)
    else .ok ⟨dictInsertOrReset ceiling d.dict (d.w ++ entry.take 1), entry, d.out ++ entry⟩

/-- The tokens after the first, in order (40_lzw.md R436). -/
def decodeTokens (ceiling outCap : Nat) : DecState → List Nat → Except Cause DecState
  | d, [] => .ok d
  | d, k :: ks =>
    match decodeToken ceiling outCap d k with
    | .error x => .error x
    | .ok d' => decodeTokens ceiling outCap d' ks

/-- The decoder as one function (40_lzw.md R431, R432, R436, R437). -/
def lzwDecode (ceiling outCap : Nat) : List Nat → Except Cause (List Byte)
  | [] => .error (.corrupt .emptyTokens)
  | t0 :: ts =>
    if 256 ≤ t0 then .error (.corrupt .badFirst)
    else if outCap < 1 then .error (.capacity .out)
    else
      match decodeTokens ceiling outCap ⟨dictSeed, [BitVec.ofNat 8 t0], [BitVec.ofNat 8 t0]⟩ ts with
      | .error x => .error x
      | .ok d => .ok d.out

/-- LZW_ENCODE's updates (40_lzw.md R400). -/
def lzwEncodeBody (s : State) : Except Cause State :=
  if s.params.inCap < s.inLen.toNat then .error (.capacity .inp)
  else
    match lzwEncode s.params.ceiling s.params.tokCap s.inBytes with
    | .error x => .error x
    | .ok t => .ok (s.dropTree.dropCodes.dropPacked.putTokens t)

/-- LZW_DECODE's updates (40_lzw.md R430). -/
def lzwDecodeBody (s : State) : Except Cause State :=
  match lzwDecode s.params.ceiling s.params.outCap s.tokens with
  | .error x => .error x
  | .ok b => .ok (s.putOut b)

/-- Stage LZW_ENCODE. -/
def stageLzwEncode : State → Except CmdError State := stage .lzwEncode lzwEncodeBody

/-- Stage LZW_DECODE. -/
def stageLzwDecode : State → Except CmdError State := stage .lzwDecode lzwDecodeBody

/-- LZW_ENCODE (40_lzw.md R400), run to its completion (44_pipeline.md R803, R810). -/
def execLzwEncode (s : State) : Host.Outcome State Fault Refusal := .next (s.complete (stageLzwEncode s))

/-- LZW_DECODE (40_lzw.md R430), run to its completion. -/
def execLzwDecode (s : State) : Host.Outcome State Fault Refusal := .next (s.complete (stageLzwDecode s))

end Sys2Proof.Machine
end

