-- ==== Sys2Proof/Machine/Pipeline.lean ====
section
/-! DEFINITION. The composite commands COMPRESS and DECOMPRESS (44_pipeline.md sections 4 and 5). -/

namespace Sys2Proof.Machine

/-- Run the stages in order, each on the state the one before it left; the first error stops the composite
(44_pipeline.md R811). -/
def runStages : List (State → Except CmdError State) → State → Except CmdError State
  | [], s => .ok s
  | f :: fs, s =>
    match f s with
    | .error e => .error e
    | .ok t => runStages fs t

/-- COMPRESS's own checks and its stages (44_pipeline.md R830, R831). -/
def runCompress (s : State) : Except CmdError State :=
  if s.inLen = 0#32 then .error ⟨.emptyInput, .compress⟩
  else if s.params.inCap < s.inLen.toNat then .error ⟨.capacity .inp, .compress⟩
  else runStages [stageLzwEncode, stageHufBuild, stageHufCodegen, stagePack, stageSerialize] s

/-- DECOMPRESS's own check and its stages (44_pipeline.md R840). -/
def runDecompress (s : State) : Except CmdError State :=
  if s.params.inCap < s.inLen.toNat then .error ⟨.capacity .inp, .decompress⟩
  else runStages [stageParse, stageUnpack, stageLzwDecode] s

/-- COMPRESS (44_pipeline.md R830), run to its completion (R803). -/
def execCompress (s : State) : Host.Outcome State Fault Refusal := .next (s.complete (runCompress s))

/-- DECOMPRESS (44_pipeline.md R840), run to its completion (R803). -/
def execDecompress (s : State) : Host.Outcome State Fault Refusal := .next (s.complete (runDecompress s))

end Sys2Proof.Machine
end

