-- ==== Sys2Proof/Machine/Step.lean ====
section
/-! DEFINITION. One step of the machine: the next event of the agenda, or, when the agenda is empty, the engine's
turn. -/

namespace Sys2Proof.Machine

/-- The engine's turn: while RUNNING, the completion step of the pending command (44_pipeline.md R803); while IDLE
there is nothing to do (R800). -/
def engineTurn (s : State) : Host.Outcome State Fault Refusal :=
  match s.engine with
  | .idle => .next s
  | .running i => exec i s

/-- One step. The agenda says which agent moves (20_memory.md R220, R221; log 3). With nothing on it the engine moves,
so that an accepted command is not postponed forever (44_pipeline.md R804; log 4). -/
def step (s : State) : Host.Outcome State Fault Refusal :=
  match s.agenda with
  | [] => engineTurn s
  | .engine :: rest => engineTurn { s with agenda := rest }
  | .host a :: rest => busAccess { s with agenda := rest } a
  | .hwReset :: rest => .next ({ s with agenda := rest }).resetCore

/-- The machine with a command word put where the next step takes it from (20_memory.md R212: there is no fetch). A
legal word is the accepted command (44_pipeline.md R801) and the engine's turn comes next; an illegal word is a CMD
write that comes next, with the engine IDLE (log 18). -/
def State.withFetchWord (s : State) (nbits w : Nat) : State :=
  match decode (tableWord nbits w) with
  | .cmd i => { s.accept i with agenda := .engine :: s.agenda }
  | .illegal _ =>
    { s with engine := .idle, agenda := .host (.write 0x008#32 4 (tableWord nbits w)) :: s.agenda }

end Sys2Proof.Machine
end

