-- ==== Sys2Proof/Machine/HostProgram.lean ====
section
/-! DEFINITION. The host-program notation as a layer over the bus (30_encoding.md R305, R306). The host's program
counter and its names belong to the host, not to the core (10_state.md R101), so they stand beside State. -/

namespace Sys2Proof.Machine

/-- The host: the line it is at, and the names it has bound. -/
structure HostCpu where
  pc : Nat
  names : Sparse Word
  deriving DecidableEq, Repr

/-- The host before its first line. -/
def HostCpu.start : HostCpu := ⟨0, []⟩

/-- What one host turn comes to. -/
inductive HostOutcome where
  | next (h : HostCpu) (s : State)
  /-- there is no further line -/
  | finished
  /-- the line's access is not admitted (20_memory.md R213) -/
  | refused
  /-- the line uses a name that no earlier read bound, or a label the program does not have (R305) -/
  | malformed
  deriving DecidableEq, Repr

/-- The index of label `l`'s line. -/
def labelLine (prog : List HostLine) (l : Nat) : Option Nat :=
  let i := prog.findIdx (fun x => decide (x = .label l))
  if i < prog.length then some i else none

/-- The offset of a register (10_state.md R102). -/
def regOffset : RegName → Word
  | .cfg => 0x000#32
  | .ctrl => 0x004#32
  | .cmd => 0x008#32
  | .status => 0x00C#32
  | .error => 0x010#32
  | .inLen => 0x014#32
  | .outLen => 0x018#32
  | .tokLen => 0x01C#32
  | .pkLen => 0x020#32
  | .padLen => 0x024#32
  | .valid => 0x028#32
  | .nodeCount => 0x02C#32
  | .progress => 0x030#32

/-- The base of a window (20_memory.md R201). -/
def windowBase : Window → Word
  | .inp => 0x10000000#32
  | .out => 0x20000000#32
  | .tok => 0x30000000#32
  | .pk => 0x40000000#32

/-- The core-relative address that an address of the notation stands for (30_encoding.md R305). -/
def hostAddr : HostAddr → Word
  | .abs a => a
  | .reg r => regOffset r
  | .win w k => windowBase w + BitVec.ofNat 32 k

/-- The number a write stores. -/
def hostValue (h : HostCpu) : HostValue → Option Word
  | .lit v => some v
  | .name n => Sparse.read h.names n

/-- Perform one access as the machine's next event. -/
def hostAccess (s : State) (a : Access) : Option State :=
  match step { s with agenda := .host a :: s.agenda } with
  | .next t => some t
  | _ => none

/-- A host branch (30_encoding.md R305). -/
def hostBranch (prog : List HostLine) (h : HostCpu) (s : State) (taken : Bool) (l : Nat) : HostOutcome :=
  match labelLine prog l with
  | none => .malformed
  | some i => if taken then .next ⟨i, h.names⟩ s else .next ⟨h.pc + 1, h.names⟩ s

/-- The host's turn: one line of its program, in program order (20_memory.md R221, 30_encoding.md R305). -/
def hostTurn (prog : List HostLine) (h : HostCpu) (s : State) : HostOutcome :=
  match prog[h.pc]? with
  | none => .finished
  | some (.wr size addr value) =>
    match hostValue h value with
    | none => .malformed
    | some v =>
      match hostAccess s (.write (hostAddr addr) size v) with
      | some t => .next ⟨h.pc + 1, h.names⟩ t
      | none => .refused
  | some (.rd size addr n) =>
    match hostAccess s (.read (hostAddr addr) size) with
    | some t => .next ⟨h.pc + 1, Sparse.write h.names n t.rdata⟩ t
    | none => .refused
  | some (.label _) => .next ⟨h.pc + 1, h.names⟩ s
  | some (.bnz n mask l) =>
    match Sparse.read h.names n with
    | none => .malformed
    | some v => hostBranch prog h s (decide (v &&& mask ≠ 0#32)) l
  | some (.bz n mask l) =>
    match Sparse.read h.names n with
    | none => .malformed
    | some v => hostBranch prog h s (decide (v &&& mask = 0#32)) l

/-- Host and engine together: `turns` says who moves, `true` the host and `false` the engine
(44_pipeline.md R804: any interleaving). -/
def runHost (prog : List HostLine) : List Bool → HostCpu → State → HostOutcome
  | [], h, s => .next h s
  | true :: rest, h, s =>
    match hostTurn prog h s with
    | .next h' s' => runHost prog rest h' s'
    | .finished => runHost prog rest h s
    | o => o
  | false :: rest, h, s =>
    match step { s with agenda := .engine :: s.agenda } with
    | .next t => runHost prog rest h t
    | _ => .refused

/-! ### Pseudo-instructions (30_encoding.md R306) -/

/-- `CMD <mnemonic>` -/
def pseudoCmd (i : Instr) : List HostLine := [.wr 4 (.reg .cmd) (.lit (encode i))]

/-- `WAIT`, with label `l` and name `n` for its status: spin until DONE = 1 -/
def pseudoWait (l n : Nat) : List HostLine := [.label l, .rd 4 (.reg .status) n, .bz n 0x2#32 l]

/-- `CLRDONE` -/
def pseudoClrDone : List HostLine := [.wr 4 (.reg .status) (.lit 0x2#32)]

/-- `IRQON` -/
def pseudoIrqOn : List HostLine := [.wr 4 (.reg .ctrl) (.lit 0x1#32)]

/-- `IRQOFF` -/
def pseudoIrqOff : List HostLine := [.wr 4 (.reg .ctrl) (.lit 0x0#32)]

/-- `SRESET` -/
def pseudoSReset : List HostLine := [.wr 4 (.reg .ctrl) (.lit 0x2#32)]

/-- The byte stores of `LOADIN`, from IN byte `k` on. -/
def pseudoLoadBytes : Nat → List Byte → List HostLine
  | _, [] => []
  | k, b :: bs => .wr 1 (.win .inp k) (.lit (b.setWidth 32)) :: pseudoLoadBytes (k + 1) bs

/-- `LOADIN b0 ... bn-1` -/
def pseudoLoadIn (bs : List Byte) : List HostLine :=
  pseudoLoadBytes 0 bs ++ [.wr 4 (.reg .inLen) (.lit (BitVec.ofNat 32 bs.length))]

end Sys2Proof.Machine
end

