-- ==== Sys2Proof/WellFormed.lean ====
section
/-! DEFINITION. Well-formedness checks on what is given to the model: the parameters of an instance, the commands, and
host programs. -/

namespace Sys2Proof

/-- The constraints on the parameters (00_scope.md R9, R13). -/
def Params.wf (p : Params) : Bool :=
  decide (256 ≤ p.ceiling ∧ p.ceiling ≤ 65536 ∧
    1 ≤ p.inCap ∧ p.inCap ≤ 268435456 ∧
    1 ≤ p.outCap ∧ p.outCap ≤ 268435456 ∧
    1 ≤ p.tokCap ∧ p.tokCap ≤ 134217728 ∧
    1 ≤ p.pkCap ∧ p.pkCap ≤ 268435456)

/-- A command has no operand field (30_encoding.md R300), so every term of Instr is well formed. -/
def Instr.wf : Instr → Bool
  | .compress => true
  | .decompress => true
  | .lzwEncode => true
  | .lzwDecode => true
  | .hufBuild => true
  | .hufCodegen => true
  | .pack => true
  | .unpack => true
  | .serialize => true
  | .parse => true

/-- The names a host program has bound after a line (30_encoding.md R305). -/
def HostLine.binds (bound : List Nat) : HostLine → List Nat
  | .rd _ _ n => n :: bound
  | _ => bound

/-- Every name a line uses was bound by an earlier `RD`, and every label it branches to is in the program
(30_encoding.md R305). -/
def HostLine.usesOk (labels bound : List Nat) : HostLine → Bool
  | .wr _ _ (.lit _) => true
  | .wr _ _ (.name n) => bound.contains n
  | .rd _ _ _ => true
  | .label _ => true
  | .bnz n _ l => bound.contains n && labels.contains l
  | .bz n _ l => bound.contains n && labels.contains l

/-- The labels a host program defines, in order. -/
def hostLabels : List HostLine → List Nat
  | [] => []
  | .label l :: rest => l :: hostLabels rest
  | _ :: rest => hostLabels rest

/-- The lines of a host program, checked in order with the names bound so far. -/
def hostUsesOk (labels : List Nat) : List Nat → List HostLine → Bool
  | _, [] => true
  | bound, x :: rest => x.usesOk labels bound && hostUsesOk labels (x.binds bound) rest

/-- A host program is well formed: its labels are distinct, it branches to labels it has, and it uses only names that
an earlier line binds (30_encoding.md R305). -/
def hostProgramWf (prog : List HostLine) : Bool :=
  decide (hostLabels prog).Nodup && hostUsesOk (hostLabels prog) [] prog

end Sys2Proof
end

