-- ==== Sys2Proof/Safety.lean ====
section
/-! DEFINITION. The terms in which claims about the core are made: trees and their codes, the invariants of the state
(10_state.md R130 and the rules that bound its registers), and what a command's results are to the host. -/

namespace Sys2Proof

/-- The number of nodes of a tree, leaves and internal nodes. -/
def HufTree.nodes : HufTree → Nat
  | .leaf _ => 1
  | .node l r => 1 + l.nodes + r.nodes

/-- The leaf symbols of a tree, left to right. -/
def HufTree.symbols : HufTree → List Nat
  | .leaf sym => [sym]
  | .node l r => l.symbols ++ r.symbols

/-- The subtree that a bit string leads to from the root, 0 left and 1 right (30_encoding.md R341); none when the path
runs on below a leaf. -/
def HufTree.follow : HufTree → Bits → Option HufTree
  | t, [] => some t
  | .leaf _, _ :: _ => none
  | .node l r, b :: bs => if b then r.follow bs else l.follow bs

/-- Bit `j` of packed bytes: byte `j div 8` at position `7 - (j mod 8)` (30_encoding.md R340). -/
def packedBit (pk : List Byte) (j : Nat) : Bool :=
  match pk[j / 8]? with
  | some b => b.getLsbD (7 - j % 8)
  | none => false

namespace Machine

/-- The accesses the spec admits, by address alone (20_memory.md R213): on the register page 4 bytes, elsewhere 1, 2 or
4 bytes, and aligned (log 10). -/
def AccessAdmitted (addr : Word) (size : Nat) : Prop :=
  (addr.toNat < 0x1000 → size = 4) ∧ (size = 1 ∨ size = 2 ∨ size = 4) ∧ addr.toNat % size = 0

/-- The same for a read or a write. -/
def Admitted : Access → Prop
  | .read addr size => AccessAdmitted addr size
  | .write addr size _ => AccessAdmitted addr size

/-- The registers are within their legal values and agree with each other. -/
structure State.RegsOk (s : State) : Prop where
  /-- 00_scope.md R9, R13 -/
  params : s.params.wf = true
  /-- ERR equals `ERROR.CODE != 0` (10_state.md R106) -/
  err : s.err = decide (s.error.code ≠ 0#8)
  /-- codes 0x06-0xFF are never produced (30_encoding.md R320) -/
  code : s.error.code.toNat ≤ 5
  /-- DETAIL and OP are 0 when CODE = NONE (30_encoding.md R322) -/
  noError : s.error.code = 0#8 → s.error = ErrorReg.none
  /-- what acceptance sets holds until the completion (44_pipeline.md R801) -/
  running : s.busy = true → s.done = false ∧ s.error = ErrorReg.none ∧ s.progress = 0#7
  /-- 44_pipeline.md R820 -/
  progress : s.progress.toNat ≤ 100
  /-- 10_state.md R109 -/
  outLen : s.outLen.toNat ≤ s.params.outCap
  /-- 10_state.md R110 -/
  tokLen : s.tokLen.toNat ≤ s.params.tokCap
  /-- 10_state.md R111 -/
  pkLen : s.pkLen.toNat ≤ s.params.pkCap
  /-- 10_state.md R117 -/
  tokFollows : s.valid.tok = false → s.tokLen = 0#32
  /-- 10_state.md R117 -/
  treeFollows : s.valid.tree = false → s.nodeCount = 0#17
  /-- 10_state.md R117 -/
  pkFollows : s.valid.pk = false → s.pkLen = 0#32 ∧ s.padLen = 0#3
  /-- 10_state.md R130 item 3 -/
  codesNeedTree : s.valid.codes = true → s.valid.tree = true
  /-- 10_state.md R130 item 5 -/
  padding : s.pkLen = 0#32 → s.padLen = 0#3

/-- The memories are in canonical form and list what is defined in them, no more. -/
structure State.MemOk (s : State) : Prop where
  inWf : Memory.wf s.inMem = true
  outWf : Memory.wf s.outMem = true
  tokWf : Sparse.wf s.tokMem = true
  pkWf : Memory.wf s.pkMem = true
  arenaWf : Sparse.wf s.arena = true
  codesWf : Sparse.wf s.codes = true
  inBound : ∀ i, s.params.inCap ≤ i → Sparse.read s.inMem i = none
  outListed : ∀ i, (Sparse.read s.outMem i).isSome = decide (i < s.outLen.toNat)
  tokListed : ∀ i, (Sparse.read s.tokMem i).isSome = decide (i < s.tokLen.toNat)
  pkListed : ∀ i, (Sparse.read s.pkMem i).isSome = decide (i < s.pkLen.toNat)
  arenaListed : ∀ i, (Sparse.read s.arena i).isSome = decide (i < s.nodeCount.toNat)
  codesEmpty : s.valid.codes = false → s.codes = []

/-- A tree fit for the core: distinct leaf symbols, all below CEILING (10_state.md R130 item 2; that every internal node
has two children, HufTree says). -/
def HufTreeOk (ceiling : Nat) (t : HufTree) : Prop := t.symbols.Nodup ∧ ∀ x ∈ t.symbols, x < ceiling

/-- Items 1 to 4 of 10_state.md R130. -/
structure State.CodecOk (s : State) : Prop where
  /-- item 1 -/
  tokens : s.valid.tok = true → ∀ x ∈ s.tokens, x < s.params.ceiling
  /-- items 2, 3 and 4 -/
  tree : s.valid.tree = true → ∃ t, s.tree? = some t ∧ t.nodes = s.nodeCount.toNat ∧
    HufTreeOk s.params.ceiling t ∧
    (s.valid.codes = true → s.codes = codeTable t) ∧
    (s.valid.tok = true → ∀ x ∈ s.tokens, x ∈ t.symbols)

/-- The invariant of the core. Item 6 of 10_state.md R130 is a statement about how a state came about and stands in no
state (log 25). -/
structure State.Inv (s : State) : Prop where
  regs : s.RegsOk
  mems : s.MemOk
  codec : s.CodecOk

/-- A command's results, as far as a host can ever tell them: the error, the valid bits, the length registers, the
defined part of each buffer, and the tree without its handles (10_state.md R123). -/
structure Results where
  error : ErrorReg
  done : Bool
  err : Bool
  progress : BitVec 7
  valid : Valid
  outLen : BitVec 32
  tokLen : BitVec 32
  pkLen : BitVec 32
  padLen : BitVec 3
  nodeCount : BitVec 17
  out : List Byte
  tokens : List Nat
  pk : List Byte
  tree : Option HufTree
  deriving DecidableEq, Repr

/-- The results in a state. -/
def State.results (s : State) : Results where
  error := s.error
  done := s.done
  err := s.err
  progress := s.progress
  valid := s.valid
  outLen := s.outLen
  tokLen := s.tokLen
  pkLen := s.pkLen
  padLen := s.padLen
  nodeCount := s.nodeCount
  out := s.outBytes
  tokens := if s.valid.tok then s.tokens else []
  pk := if s.valid.pk then s.pkBytes else []
  tree := if s.valid.tree then s.tree? else none

/-- The part of the state that belongs to the host and to the instance: no command changes it. -/
structure State.SameHostSide (s t : State) : Prop where
  params : t.params = s.params
  agenda : t.agenda = s.agenda
  rdata : t.rdata = s.rdata
  irqEn : t.irqEn = s.irqEn
  inLen : t.inLen = s.inLen
  inBytes : ∀ i, t.inByte i = s.inByte i

/-- How a successful completion leaves the engine, STATUS, ERROR and PROGRESS (44_pipeline.md R803). -/
structure State.CompletedOk (t : State) : Prop where
  engine : t.engine = .idle
  done : t.done = true
  err : t.err = false
  error : t.error = ⟨0x00#8, 0x00#8, 0x00#8⟩
  progress : t.progress = 100#7

/-- How an error completion leaves the state (60_exceptions.md R910): `t` after `s`, with ERROR holding the given
fields. -/
structure State.FailedWith (s t : State) (code detail op : Byte) : Prop where
  error : t.error = ⟨code, detail, op⟩
  engine : t.engine = .idle
  done : t.done = true
  err : t.err = true
  valid : t.valid = ⟨false, false, false, false⟩
  tokLen : t.tokLen = 0#32
  nodeCount : t.nodeCount = 0#17
  pkLen : t.pkLen = 0#32
  padLen : t.padLen = 0#3
  outLen : t.outLen = 0#32
  progress : t.progress = 0#7
  host : s.SameHostSide t

/-- TOK_MEM and TOK_LEN are unchanged. -/
structure State.SameTokens (s t : State) : Prop where
  len : t.tokLen = s.tokLen
  mem : ∀ i, Sparse.read t.tokMem i = Sparse.read s.tokMem i

/-- OUT_MEM and OUT_LEN are unchanged. -/
structure State.SameOut (s t : State) : Prop where
  len : t.outLen = s.outLen
  mem : ∀ i, Sparse.read t.outMem i = Sparse.read s.outMem i

/-- PK_MEM, PK_LEN and PAD_LEN are unchanged. -/
structure State.SamePacked (s t : State) : Prop where
  len : t.pkLen = s.pkLen
  pad : t.padLen = s.padLen
  mem : ∀ i, Sparse.read t.pkMem i = Sparse.read s.pkMem i

/-- ARENA, ROOT and NODE_COUNT are unchanged. -/
structure State.SameTree (s t : State) : Prop where
  count : t.nodeCount = s.nodeCount
  root : t.root = s.root
  mem : ∀ h, Sparse.read t.arena h = Sparse.read s.arena h

/-- CODES is unchanged. -/
structure State.SameCodes (s t : State) : Prop where
  mem : ∀ x, Sparse.read t.codes x = Sparse.read s.codes x

end Machine

end Sys2Proof
end

