-- ==== Sys2Proof/Certificates/Slice0/Obligations.lean ====
section
/-! DEFINITION. The statements for the provers. Each docstring names the rules of spec/ it formalises. -/

open Sys2Proof Sys2Proof.Machine

/-! ### Command words -/

/-- The opcode map of R301, word by word, both ways. -/
def Obligations.OpcodeMapWords : Prop :=
  (decode 0x00000001#32 = .cmd .compress ∧ encode .compress = 0x00000001#32) ∧
  (decode 0x00000002#32 = .cmd .decompress ∧ encode .decompress = 0x00000002#32) ∧
  (decode 0x00000010#32 = .cmd .lzwEncode ∧ encode .lzwEncode = 0x00000010#32) ∧
  (decode 0x00000011#32 = .cmd .lzwDecode ∧ encode .lzwDecode = 0x00000011#32) ∧
  (decode 0x00000020#32 = .cmd .hufBuild ∧ encode .hufBuild = 0x00000020#32) ∧
  (decode 0x00000021#32 = .cmd .hufCodegen ∧ encode .hufCodegen = 0x00000021#32) ∧
  (decode 0x00000030#32 = .cmd .pack ∧ encode .pack = 0x00000030#32) ∧
  (decode 0x00000031#32 = .cmd .unpack ∧ encode .unpack = 0x00000031#32) ∧
  (decode 0x00000040#32 = .cmd .serialize ∧ encode .serialize = 0x00000040#32) ∧
  (decode 0x00000041#32 = .cmd .parse ∧ encode .parse = 0x00000041#32)

/-- R302: a word is a command exactly when its bits 31:8 are 0 and its bits 7:0 are an OPCODE of the table; every other
word is illegal, with its bits 7:0, and writing it to CMD while BUSY = 0 completes at once with BAD_COMMAND. -/
def Obligations.LegalWordsAreTheTenOpcodes : Prop :=
  ∀ w : Word,
    ((w.extractLsb' 8 24 = 0#24 ∧
        w.extractLsb' 0 8 ∈ [0x01#8, 0x02#8, 0x10#8, 0x11#8, 0x20#8, 0x21#8, 0x30#8, 0x31#8, 0x40#8, 0x41#8]) →
      ∃ i, decode w = .cmd i ∧ opcode i = w.extractLsb' 0 8 ∧ encode i = w ∧
        decodeTableWord 32 w.toNat = some i) ∧
    (¬(w.extractLsb' 8 24 = 0#24 ∧
        w.extractLsb' 0 8 ∈ [0x01#8, 0x02#8, 0x10#8, 0x11#8, 0x20#8, 0x21#8, 0x30#8, 0x31#8, 0x40#8, 0x41#8]) →
      decode w = .illegal (w.extractLsb' 0 8) ∧ decodeTableWord 32 w.toNat = none ∧
      ∀ (s : State) (rest : List Event), s.agenda = .host (.write 0x008#32 4 w) :: rest → s.busy = false →
        ∃ t, step s = .next t ∧ t.busy = false ∧ t.done = true ∧ t.error.code = 0x03#8)

/-! ### The step and the life of a command -/

/-- The engine's turn: while a command is pending, the step is that command's meaning, whether the agenda is empty or
names the engine; an IDLE engine does nothing; and the word placed by withFetchWord is the one that runs. The agenda is
the model's (log 3, log 4, log 18). -/
def Obligations.StepRunsThePendingCommand : Prop :=
  (∀ s i, s.engine = .running i → s.agenda = [] → step s = exec i s) ∧
  (∀ s i rest, s.engine = .running i → s.agenda = .engine :: rest →
    step s = exec i { s with agenda := rest }) ∧
  (∀ s, s.engine = .idle → s.agenda = [] → step s = .next s) ∧
  (∀ s rest, s.engine = .idle → s.agenda = .engine :: rest → step s = .next { s with agenda := rest }) ∧
  (∀ (s : State) (i : Instr), step (s.withFetchWord 32 (encode i).toNat) =
    exec i { s with engine := .running i, done := false, err := false, error := ⟨0#8, 0#8, 0#8⟩, progress := 0#7 })

/-- R801, R902 and R1012: a CMD write while BUSY changes nothing; an illegal word while IDLE completes at once with
BAD_COMMAND and changes nothing else; a legal word while IDLE is accepted. -/
def Obligations.CmdWriteFollowsTheIssueRule : Prop :=
  ∀ (s : State) (v : Word) (rest : List Event), s.agenda = .host (.write 0x008#32 4 v) :: rest →
    (s.busy = true → step s = .next { s with agenda := rest }) ∧
    (s.busy = false → (∀ i, v ≠ encode i) →
      step s = .next { s with agenda := rest, error := ⟨0x03#8, 0x00#8, v.extractLsb' 0 8⟩,
                              err := true, done := true }) ∧
    (s.busy = false → ∀ i, v = encode i →
      step s = .next { s with agenda := rest, engine := .running i, done := false, err := false,
                              error := ⟨0x00#8, 0x00#8, 0x00#8⟩, progress := 0#7 })

/-- R213, R217 and R906: the machine stops on nothing but a host access that R213 does not admit, and on each of those
it is refused; every other step answers a next state. -/
def Obligations.StopsExactlyOnAccessesNotAdmitted : Prop :=
  ∀ s : State,
    ((∀ a rest, s.agenda = .host a :: rest → Admitted a) → ∃ t, step s = .next t) ∧
    (∀ a rest, s.agenda = .host a :: rest → ¬Admitted a → step s = .refused (.accessNotAdmitted a))

/-- R803 and R805: every command completes, in every state, and leaves the engine IDLE, DONE = 1 and ERR telling whether
ERROR.CODE is not 0; a success has ERROR = 0 and PROGRESS = 100. With R920, IRQ is then IRQ_EN. -/
def Obligations.EveryCommandCompletes : Prop :=
  ∀ (i : Instr) (s : State), ∃ t, exec i s = .next t ∧
    t.engine = .idle ∧ t.done = true ∧ t.err = decide (t.error.code ≠ 0#8) ∧
    (t.err = false → t.error = ⟨0#8, 0#8, 0#8⟩ ∧ t.progress = 100#7) ∧
    t.irq = s.irqEn

/-- R910: an error completion clears VALID, every length register but IN_LEN, and PROGRESS, and leaves IN_MEM, IN_LEN,
CTRL and the parameters as they were. -/
def Obligations.ErrorCompletionDropsEveryResult : Prop :=
  ∀ (i : Instr) (s t : State), exec i s = .next t → t.error.code ≠ 0#8 →
    s.FailedWith t t.error.code t.error.detail t.error.op

/-- R320 to R322 and the OP columns of R900, R901, R903 and R904: no command produces an error outside the tables. -/
def Obligations.ErrorsAreThoseOfTheTables : Prop :=
  ∀ (i : Instr) (s t : State), exec i s = .next t → t.error.code ≠ 0#8 →
    (t.error.code, t.error.detail, t.error.op) ∈
      [(0x01#8, 0x00#8, 0x01#8), (0x01#8, 0x00#8, 0x20#8),
       (0x02#8, 0x01#8, 0x41#8), (0x02#8, 0x02#8, 0x41#8), (0x02#8, 0x03#8, 0x41#8), (0x02#8, 0x04#8, 0x41#8),
       (0x02#8, 0x05#8, 0x41#8), (0x02#8, 0x06#8, 0x41#8), (0x02#8, 0x07#8, 0x41#8),
       (0x02#8, 0x08#8, 0x31#8), (0x02#8, 0x09#8, 0x31#8), (0x02#8, 0x0A#8, 0x31#8),
       (0x02#8, 0x0B#8, 0x11#8), (0x02#8, 0x0C#8, 0x11#8), (0x02#8, 0x0D#8, 0x11#8)] ++
      [(0x04#8, 0x01#8, 0x11#8), (0x04#8, 0x01#8, 0x20#8), (0x04#8, 0x02#8, 0x21#8),
       (0x04#8, 0x01#8, 0x30#8), (0x04#8, 0x04#8, 0x30#8), (0x04#8, 0x05#8, 0x30#8), (0x04#8, 0x10#8, 0x30#8),
       (0x04#8, 0x02#8, 0x31#8), (0x04#8, 0x08#8, 0x31#8), (0x04#8, 0x0A#8, 0x31#8),
       (0x04#8, 0x02#8, 0x40#8), (0x04#8, 0x08#8, 0x40#8), (0x04#8, 0x0A#8, 0x40#8)] ++
      [(0x05#8, 0x01#8, 0x10#8), (0x05#8, 0x01#8, 0x41#8), (0x05#8, 0x01#8, 0x01#8), (0x05#8, 0x01#8, 0x02#8),
       (0x05#8, 0x02#8, 0x11#8), (0x05#8, 0x02#8, 0x40#8), (0x05#8, 0x03#8, 0x10#8), (0x05#8, 0x03#8, 0x31#8),
       (0x05#8, 0x04#8, 0x30#8), (0x05#8, 0x04#8, 0x41#8)]

/-- The table of R904: a stage command issued while a required valid bit is 0 fails with SEQUENCE_ERROR, DETAIL the mask
of the missing bits; LZW_ENCODE, PARSE, COMPRESS and DECOMPRESS never raise it. -/
def Obligations.MissingValidBitsRaiseSequenceError : Prop :=
  ∀ s : State,
    (s.valid.tok = false → ∃ t, exec .lzwDecode s = .next t ∧ s.FailedWith t 0x04#8 0x01#8 0x11#8) ∧
    (s.valid.tok = false → ∃ t, exec .hufBuild s = .next t ∧ s.FailedWith t 0x04#8 0x01#8 0x20#8) ∧
    (s.valid.tree = false → ∃ t, exec .hufCodegen s = .next t ∧ s.FailedWith t 0x04#8 0x02#8 0x21#8) ∧
    ((s.valid.tok && s.valid.codes) = false → ∃ t, exec .pack s = .next t ∧
      s.FailedWith t 0x04#8 ((if s.valid.tok then 0x00#8 else 0x01#8) + (if s.valid.codes then 0x00#8 else 0x04#8))
        0x30#8) ∧
    ((s.valid.tree && s.valid.pk) = false → ∃ t, exec .unpack s = .next t ∧
      s.FailedWith t 0x04#8 ((if s.valid.tree then 0x00#8 else 0x02#8) + (if s.valid.pk then 0x00#8 else 0x08#8))
        0x31#8) ∧
    ((s.valid.tree && s.valid.pk) = false → ∃ t, exec .serialize s = .next t ∧
      s.FailedWith t 0x04#8 ((if s.valid.tree then 0x00#8 else 0x02#8) + (if s.valid.pk then 0x00#8 else 0x08#8))
        0x40#8) ∧
    (∃ t, exec .lzwEncode s = .next t ∧ t.error.code ≠ 0x04#8) ∧
    (∃ t, exec .parse s = .next t ∧ t.error.code ≠ 0x04#8) ∧
    (s.params.wf = true → (∃ t, exec .compress s = .next t ∧ t.error.code ≠ 0x04#8) ∧
      ∃ t, exec .decompress s = .next t ∧ t.error.code ≠ 0x04#8)

/-- The error lists of R830 and R840: COMPRESS raises no CORRUPT_STREAM and no SEQUENCE_ERROR, DECOMPRESS no
SEQUENCE_ERROR, each error with the opcode listed. -/
def Obligations.CompositesRaiseOnlyTheirErrors : Prop :=
  ∀ (s t : State), s.params.wf = true →
    (exec .compress s = .next t → t.err = true →
      (t.error.code, t.error.detail, t.error.op) ∈
        [(0x01#8, 0x00#8, 0x01#8), (0x05#8, 0x01#8, 0x01#8), (0x05#8, 0x03#8, 0x10#8), (0x05#8, 0x04#8, 0x30#8),
         (0x05#8, 0x02#8, 0x40#8)]) ∧
    (exec .decompress s = .next t → t.err = true →
      (t.error.code, t.error.detail, t.error.op) ∈
        [(0x05#8, 0x01#8, 0x02#8),
         (0x02#8, 0x01#8, 0x41#8), (0x02#8, 0x02#8, 0x41#8), (0x02#8, 0x03#8, 0x41#8), (0x02#8, 0x04#8, 0x41#8),
         (0x02#8, 0x05#8, 0x41#8), (0x02#8, 0x06#8, 0x41#8), (0x02#8, 0x07#8, 0x41#8), (0x05#8, 0x04#8, 0x41#8),
         (0x02#8, 0x08#8, 0x31#8), (0x02#8, 0x09#8, 0x31#8), (0x02#8, 0x0A#8, 0x31#8), (0x05#8, 0x03#8, 0x31#8),
         (0x02#8, 0x0B#8, 0x11#8), (0x02#8, 0x0C#8, 0x11#8), (0x02#8, 0x0D#8, 0x11#8), (0x05#8, 0x02#8, 0x11#8)])

/-- R118, R802 and R910: no command, succeeding or failing, changes IN_MEM, IN_LEN, CTRL or the parameters. -/
def Obligations.CommandsLeaveTheInputAlone : Prop :=
  ∀ (i : Instr) (s t : State), exec i s = .next t →
    s.SameHostSide t ∧ ∀ j, Sparse.read t.inMem j = Sparse.read s.inMem j

/-! ### LZW -/

/-- R400 with R406 and R407: LZW_ENCODE succeeds whenever IN_LEN fits IN_CAP and the tokens that R408 gives fit TOK_CAP,
writes those tokens, and changes nothing else but what R117 says. -/
def Obligations.LzwEncodeWritesTheTokens : Prop :=
  ∀ (s : State) (out : List Nat), s.params.wf = true → s.inLen.toNat ≤ s.params.inCap →
    lzwEncode s.params.ceiling s.params.tokCap s.inBytes = .ok out →
    ∃ t, exec .lzwEncode s = .next t ∧
      t.tokens = out ∧ t.tokLen.toNat = out.length ∧
      t.valid = ⟨true, false, false, false⟩ ∧ t.nodeCount = 0#17 ∧ t.pkLen = 0#32 ∧ t.padLen = 0#3 ∧
      t.CompletedOk ∧ s.SameHostSide t ∧ s.SameOut t

/-- R407 and the IN check of R903: with `u` the tokens that an unbounded TOK_MEM would take, the encoder gives `u` when
they fit TOK_CAP and fails when they do not; LZW_ENCODE succeeds in the first case, fails with CAPACITY_EXCEEDED/TOK in
the second, and fails with CAPACITY_EXCEEDED/IN when IN_LEN > IN_CAP; with TOK_CAP >= IN_LEN the second never comes. -/
def Obligations.LzwEncodeCapacity : Prop :=
  (∀ (ceiling : Nat) (b : List Byte), ∃ u, u.length ≤ b.length ∧
    ∀ cap, lzwEncode ceiling cap b = if u.length ≤ cap then .ok u else .error (.capacity .tok)) ∧
  (∀ s : State, s.params.inCap < s.inLen.toNat →
    ∃ t, exec .lzwEncode s = .next t ∧ s.FailedWith t 0x05#8 0x01#8 0x10#8) ∧
  (∀ s : State, s.inLen.toNat ≤ s.params.inCap →
    (∀ u, lzwEncode s.params.ceiling s.params.tokCap s.inBytes = .ok u →
      ∃ t, exec .lzwEncode s = .next t ∧ t.CompletedOk) ∧
    (lzwEncode s.params.ceiling s.params.tokCap s.inBytes = .error (.capacity .tok) →
      ∃ t, exec .lzwEncode s = .next t ∧ s.FailedWith t 0x05#8 0x03#8 0x10#8))

/-- R410 and R414: every token is below CEILING, a code is emitted below the free-code counter, which is at most CEILING;
a byte emits at most one token, and only by a miss; the first byte never misses; and a non-empty input gives at least
one token and at most one a byte. -/
def Obligations.LzwTokensBoundedAndCounted : Prop :=
  ∀ (ceiling cap : Nat) (b : List Byte), 256 ≤ ceiling →
    (∀ t, lzwEncode ceiling cap b = .ok t →
      (∀ x ∈ t, x < ceiling) ∧ (1 ≤ b.length → 1 ≤ t.length ∧ t.length ≤ b.length)) ∧
    (∀ e, encodeBytes ceiling cap EncState.init b = .ok e →
      (e.w ≠ [] → dictCode e.dict e.w < e.dict.length) ∧ e.dict.length ≤ ceiling ∧
      ∀ c e', encodeByte ceiling cap e c = .ok e' →
        e'.out = e.out ∨ (e.w ++ [c] ∉ e.dict ∧ e'.out = e.out ++ [dictCode e.dict e.w])) ∧
    (∀ c, [c] ∈ EncState.init.dict ∧ encodeByte ceiling cap EncState.init c = .ok { EncState.init with w := [c] })

/-- R402: at every point of a pass the encoder's dictionary has no string twice; and R409: every single byte is in it, so
a miss needs a non-empty running string, which is always a string of the dictionary, whose code is then found. -/
def Obligations.LzwDictionaryIsInjective : Prop :=
  ∀ (ceiling cap : Nat) (b : List Byte) (e : EncState), encodeBytes ceiling cap EncState.init b = .ok e →
    e.dict.Nodup ∧ (∀ c, [c] ∈ e.dict) ∧ (∀ c, e.w ++ [c] ∉ e.dict → e.w ≠ []) ∧
    (e.w = [] ∨ (e.w ∈ e.dict ∧ e.dict[dictCode e.dict e.w]? = some e.w))

/-- R412 and R438: after `n` tokens emitted by misses the encoder holds 256 + n mod (CEILING - 255) entries, and after
`n` tokens past the first the decoder does, so the action after token `m` is a reset exactly when (m + 1) is a multiple
of CEILING - 255 and both sides reset at the same logical point. -/
def Obligations.LzwResetCadence : Prop :=
  (∀ (ceiling cap : Nat) (b : List Byte) (e : EncState), 256 ≤ ceiling →
    encodeBytes ceiling cap EncState.init b = .ok e →
    e.dict.length = 256 + e.out.length % (ceiling - 255) ∧
    (e.dict = dictSeed ↔ e.out.length % (ceiling - 255) = 0)) ∧
  (∀ (ceiling cap : Nat) (c : Byte) (ts : List Nat) (d : DecState), 256 ≤ ceiling →
    decodeTokens ceiling cap ⟨dictSeed, [c], [c]⟩ ts = .ok d →
    d.dict.length = 256 + ts.length % (ceiling - 255))

/-- R441 in the encoder: within an epoch every dictionary string has at most 1 + (free - 256) bytes; and R438: once the
decoder has processed the token that follows those the encoder had emitted, its dictionary is the encoder's of that
moment, so the bound holds of it too. (On tokens no encoder made, R435 lets a decoder's string be longer; log 27.) -/
def Obligations.LzwDictionariesAgreeAndAreBounded : Prop :=
  (∀ (ceiling cap : Nat) (b : List Byte) (e : EncState), 256 ≤ ceiling →
    encodeBytes ceiling cap EncState.init b = .ok e →
    ∀ x ∈ e.dict, x.length ≤ 1 + (e.dict.length - 256)) ∧
  (∀ (ceiling cap outCap t0 k : Nat) (ts rest : List Nat) (b b' : List Byte) (e : EncState) (d : DecState),
    256 ≤ ceiling → encodeBytes ceiling cap EncState.init b = .ok e → e.out = t0 :: ts →
    lzwEncode ceiling cap (b ++ b') = .ok (t0 :: ts ++ k :: rest) →
    decodeTokens ceiling outCap ⟨dictSeed, [BitVec.ofNat 8 t0], [BitVec.ofNat 8 t0]⟩ (ts ++ [k]) = .ok d →
    d.dict = e.dict ∧ ∀ x ∈ d.dict, x.length ≤ 1 + (d.dict.length - 256))

/-- R430: with TOK_V = 1 and tokens that R436 decodes to `b`, LZW_DECODE writes `b` to OUT_MEM and OUT_LEN and changes
nothing else. -/
def Obligations.LzwDecodeWritesTheBytes : Prop :=
  ∀ (s : State) (b : List Byte), s.params.wf = true → s.valid.tok = true →
    lzwDecode s.params.ceiling s.params.outCap s.tokens = .ok b →
    ∃ t, exec .lzwDecode s = .next t ∧
      t.outBytes = b ∧ t.outLen.toNat = b.length ∧ t.valid = s.valid ∧
      t.CompletedOk ∧ s.SameHostSide t ∧ s.SameTokens t ∧ s.SameTree t ∧ s.SameCodes t ∧ s.SamePacked t

/-- R431, R432, R434 and R437: no tokens, a first token of 256 or more, and the first token above the free-code counter,
whatever follows it and whatever OUT_CAP is, each fail with their own DETAIL; and the first token whose entry, known or
KwKwK, would take the output beyond OUT_CAP fails with CAPACITY_EXCEEDED/OUT. -/
def Obligations.LzwDecodeRejectsBadTokens : Prop :=
  ∀ s : State, s.valid.tok = true → 1 ≤ s.params.outCap →
    (s.tokens = [] → ∃ t, exec .lzwDecode s = .next t ∧ s.FailedWith t 0x02#8 0x0B#8 0x11#8) ∧
    (∀ t0 ts, s.tokens = t0 :: ts → 256 ≤ t0 →
      ∃ t, exec .lzwDecode s = .next t ∧ s.FailedWith t 0x02#8 0x0C#8 0x11#8) ∧
    (∀ t0 pre k post d, s.tokens = t0 :: pre ++ k :: post → t0 < 256 →
      decodeTokens s.params.ceiling s.params.outCap
        ⟨dictSeed, [BitVec.ofNat 8 t0], [BitVec.ofNat 8 t0]⟩ pre = .ok d →
      d.dict.length < k →
      ∃ t, exec .lzwDecode s = .next t ∧ s.FailedWith t 0x02#8 0x0D#8 0x11#8) ∧
    (∀ t0 pre k post d entry, s.tokens = t0 :: pre ++ k :: post → t0 < 256 →
      decodeTokens s.params.ceiling s.params.outCap
        ⟨dictSeed, [BitVec.ofNat 8 t0], [BitVec.ofNat 8 t0]⟩ pre = .ok d →
      (d.dict[k]? = some entry ∨ (k = d.dict.length ∧ entry = d.w ++ d.w.take 1)) →
      s.params.outCap < d.out.length + entry.length →
      ∃ t, exec .lzwDecode s = .next t ∧ s.FailedWith t 0x05#8 0x02#8 0x11#8)

/-- R439: decoding the encoder's tokens gives the input back, and the decoder resets at a token exactly when the encoder
reset after the token before it. (A dictionary equal to the seeds, after a token past the first, is one just reset.) -/
def Obligations.LzwRoundTrip : Prop :=
  ∀ (ceiling tokCap outCap : Nat) (b : List Byte) (t : List Nat), 256 ≤ ceiling → b ≠ [] → b.length ≤ outCap →
    lzwEncode ceiling tokCap b = .ok t →
    lzwDecode ceiling outCap t = .ok b ∧
    ∀ (b1 b2 : List Byte) (t0 k : Nat) (ts rest : List Nat) (e : EncState), b = b1 ++ b2 →
      encodeBytes ceiling tokCap EncState.init b1 = .ok e → e.out = t0 :: ts → t = t0 :: ts ++ k :: rest →
      ∃ d, decodeTokens ceiling outCap ⟨dictSeed, [BitVec.ofNat 8 t0], [BitVec.ofNat 8 t0]⟩ (ts ++ [k]) = .ok d ∧
        (d.dict = dictSeed ↔ e.dict = dictSeed)

/-! ### Huffman -/

/-- R500, R510, R516 and R519: HUF_BUILD on a non-empty token stream loads a tree whose leaf symbols are the distinct
tokens, each once, with 2L - 1 nodes, root 2L - 2 and the root's frequency TOK_LEN; on an empty one it fails with
EMPTY_INPUT. -/
def Obligations.HufBuildLoadsTheTree : Prop :=
  ∀ s : State, s.params.wf = true → s.valid.tok = true → (∀ x ∈ s.tokens, x < s.params.ceiling) →
    (s.tokLen = 0#32 → ∃ t, exec .hufBuild s = .next t ∧ s.FailedWith t 0x01#8 0x00#8 0x20#8) ∧
    (s.tokLen ≠ 0#32 → ∃ t tr, exec .hufBuild s = .next t ∧
      (∀ h, Sparse.read t.arena h = (hufBuild s.params.ceiling s.tokens).arena[h]?) ∧
      t.tree? = some tr ∧ tr.symbols.Nodup ∧ (∀ x, x ∈ tr.symbols ↔ x ∈ s.tokens) ∧
      t.nodeCount.toNat = 2 * tr.symbols.length - 1 ∧ tr.nodes = t.nodeCount.toNat ∧
      t.root = 2 * tr.symbols.length - 2 ∧
      (∃ n, Sparse.read t.arena t.root = some n ∧
        (match n with | .leaf _ f => f | .internal _ _ f => f) = s.tokLen) ∧
      t.valid = ⟨true, true, false, false⟩ ∧ t.pkLen = 0#32 ∧ t.padLen = 0#3 ∧
      t.CompletedOk ∧ s.SameHostSide t ∧ s.SameTokens t ∧ s.SameOut t)

/-- R520: the tree depends on the multiset of tokens alone. -/
def Obligations.HufBuildDependsOnTheMultiset : Prop :=
  ∀ (ceiling : Nat) (t u : List Nat), t.Perm u → hufBuild ceiling t = hufBuild ceiling u

/-- R513 and R514: whatever the order of insertion, the queue's head is an entry that none precedes in the order by
(freq, seq), and no entry is lost or made; with distinct seq values the queue does not depend on that order at all. -/
def Obligations.QueueHeadIsTheLeastEntry : Prop :=
  ∀ l : List PqEntry,
    (l.foldr pqInsert []).Perm l ∧
    (∀ e rest, l.foldr pqInsert [] = e :: rest →
      ∀ x ∈ l, e.freq < x.freq ∨ (e.freq = x.freq ∧ e.seq ≤ x.seq)) ∧
    (∀ l', (l.map (·.seq)).Nodup → l.Perm l' → l.foldr pqInsert [] = l'.foldr pqInsert [])

/-- R530, R531 and R534: HUF_CODEGEN gives each leaf symbol the branch bits from the root to its leaf, a single leaf the
code "0", and no other symbol a code; it changes no other buffer. -/
def Obligations.HufCodegenWritesThePaths : Prop :=
  ∀ (s : State) (tr : HufTree), s.valid.tree = true → s.tree? = some tr → tr.symbols.Nodup →
    ∃ t, exec .hufCodegen s = .next t ∧
      (∀ x p, Sparse.read t.codes x = some p ↔
        (tr = .leaf x ∧ p = [false]) ∨ ((∀ y, tr ≠ .leaf y) ∧ tr.follow p = some (.leaf x))) ∧
      t.valid = { s.valid with codes := true } ∧
      t.CompletedOk ∧ s.SameHostSide t ∧ s.SameTokens t ∧ s.SameTree t ∧ s.SamePacked t ∧ s.SameOut t

/-- R533: exactly the leaf symbols have codes; no code is a prefix of another symbol's; for L >= 2 every code has length
1 to L - 1, is the branch path to its leaf, and the sum of 2^(-len) is 1; for L = 1 the code has length 1. -/
def Obligations.CodeTableIsAPrefixCode : Prop :=
  ∀ tr : HufTree, tr.symbols.Nodup →
    (∀ x, (Sparse.read (codeTable tr) x).isSome = true ↔ x ∈ tr.symbols) ∧
    (∀ x y p q, Sparse.read (codeTable tr) x = some p → Sparse.read (codeTable tr) y = some q → p <+: q → x = y) ∧
    (2 ≤ tr.symbols.length →
      (∀ x p, Sparse.read (codeTable tr) x = some p →
        1 ≤ p.length ∧ p.length ≤ tr.symbols.length - 1 ∧ tr.follow p = some (.leaf x)) ∧
      ((codeTable tr).map (fun c => (1 / 2 : ℚ) ^ c.2.length)).sum = 1) ∧
    (tr.symbols.length = 1 → ∀ x p, Sparse.read (codeTable tr) x = some p → p.length = 1)

/-! ### Packing -/

/-- R600, R601, R603, R604 and R340: with TOK_V and CODES_V set, every token coded and the bits `B` fitting PK_CAP, PACK
writes `B` and then zero bits to the next byte boundary, first bit in bit 7 of byte 0. -/
def Obligations.PackWritesTheBits : Prop :=
  ∀ (s : State) (B : Bits), s.params.wf = true → s.valid.tok = true → s.valid.codes = true →
    codeBits s.codes s.tokens = .ok B → B.length ≤ 8 * s.params.pkCap →
    ∃ t, exec .pack s = .next t ∧
      t.pkLen.toNat = (B.length + 7) / 8 ∧ t.padLen.toNat = 8 * t.pkLen.toNat - B.length ∧
      t.pkBytes.length = t.pkLen.toNat ∧
      (∀ j, j < 8 * t.pkLen.toNat → packedBit t.pkBytes j = B.getD j false) ∧
      t.valid = { s.valid with pk := true } ∧
      t.CompletedOk ∧ s.SameHostSide t ∧ s.SameTokens t ∧ s.SameTree t ∧ s.SameCodes t ∧ s.SameOut t

/-- R601 to R603: the bits PACK writes are the codes of the tokens in token order, and they exist exactly when every
token has a code. -/
def Obligations.PackConcatenatesTheCodes : Prop :=
  ∀ (codes : Sparse Bits) (t : List Nat),
    ((∀ x ∈ t, (Sparse.read codes x).isSome = true) →
      codeBits codes t = .ok (t.flatMap (fun x => (Sparse.read codes x).getD []))) ∧
    ((∃ x ∈ t, Sparse.read codes x = none) → codeBits codes t = .error .noCode)

/-- R602 and R605: a token with no code fails with SEQUENCE_ERROR 0x10, and bits beyond PK_CAP bytes fail with
CAPACITY_EXCEEDED/PK. -/
def Obligations.PackErrors : Prop :=
  ∀ s : State, s.valid.tok = true → s.valid.codes = true →
    ((∃ x ∈ s.tokens, Sparse.read s.codes x = none) →
      ∃ t, exec .pack s = .next t ∧ s.FailedWith t 0x04#8 0x10#8 0x30#8) ∧
    (∀ B, codeBits s.codes s.tokens = .ok B → 8 * s.params.pkCap < B.length →
      ∃ t, exec .pack s = .next t ∧ s.FailedWith t 0x05#8 0x04#8 0x30#8)

/-- R620, R624 and R630: with TREE_V and PK_V set and packed bits that R627 decodes to `toks`, UNPACK writes `toks` and
changes no other buffer; with PK_LEN = 0 (and PAD_LEN = 0) it succeeds with no tokens whatever the tree; and payload bits
that begin with the codes of more than TOK_CAP tokens fail with CAPACITY_EXCEEDED/TOK. -/
def Obligations.UnpackWritesTheTokens : Prop :=
  ∀ s : State, s.valid.tree = true → s.valid.pk = true →
    (∀ (tr : HufTree) (toks : List Nat), s.params.wf = true → s.tree? = some tr →
      unpackTokens s.params.tokCap tr s.pkBytes s.padLen.toNat = .ok toks →
      ∃ t, exec .unpack s = .next t ∧ t.tokens = toks ∧ t.tokLen.toNat = toks.length ∧
        t.valid = { s.valid with tok := true } ∧
        t.CompletedOk ∧ s.SameHostSide t ∧ s.SameTree t ∧ s.SameCodes t ∧ s.SamePacked t ∧ s.SameOut t) ∧
    (s.pkLen = 0#32 → s.padLen = 0#3 →
      ∃ t, exec .unpack s = .next t ∧ t.tokens = [] ∧ t.tokLen = 0#32 ∧ t.valid = { s.valid with tok := true } ∧
        t.CompletedOk ∧ s.SameHostSide t ∧ s.SameTree t ∧ s.SameCodes t ∧ s.SamePacked t ∧ s.SameOut t) ∧
    (∀ (tr : HufTree) (toks : List Nat) (B rest : Bits), s.tree? = some tr → tr.symbols.Nodup →
      codeBits (codeTable tr) toks = .ok B → s.params.tokCap < toks.length →
      (bitsOfBytes s.pkBytes).take (8 * s.pkBytes.length - s.padLen.toNat) = B ++ rest →
      ∃ t, exec .unpack s = .next t ∧ s.FailedWith t 0x05#8 0x03#8 0x31#8)

/-- R623: under a single-leaf tree each payload bit 0 is one token and a payload bit 1 is UNKNOWN_CODE, unless more than
TOK_CAP payload bits 0 come before it, which is CAPACITY_EXCEEDED/TOK (R624); first of the walk, then of UNPACK. -/
def Obligations.UnpackSingleLeafTree : Prop :=
  (∀ (cap sym n : Nat),
    (n ≤ cap → walkBits cap (.leaf sym) (.leaf sym) [] (List.replicate n false) = .ok (List.replicate n sym)) ∧
    (n ≤ cap → ∀ rest, walkBits cap (.leaf sym) (.leaf sym) [] (List.replicate n false ++ true :: rest) =
      .error (.corrupt .unknownCode)) ∧
    (cap < n → ∀ rest, walkBits cap (.leaf sym) (.leaf sym) [] (List.replicate n false ++ rest) =
      .error (.capacity .tok))) ∧
  (∀ (s : State) (sym n : Nat) (P : Bits), s.params.wf = true → s.valid.tree = true → s.valid.pk = true →
    s.tree? = some (.leaf sym) → P = (bitsOfBytes s.pkBytes).take (8 * s.pkBytes.length - s.padLen.toNat) →
    (n ≤ s.params.tokCap → P = List.replicate n false →
      (∀ j, n ≤ j → packedBit s.pkBytes j = false) →
      ∃ t, exec .unpack s = .next t ∧ t.tokens = List.replicate n sym ∧ t.tokLen.toNat = n ∧ t.CompletedOk) ∧
    (n ≤ s.params.tokCap → ∀ rest, P = List.replicate n false ++ true :: rest →
      ∃ t, exec .unpack s = .next t ∧ s.FailedWith t 0x02#8 0x08#8 0x31#8) ∧
    (s.params.tokCap < n → ∀ rest, P = List.replicate n false ++ rest →
      ∃ t, exec .unpack s = .next t ∧ s.FailedWith t 0x05#8 0x03#8 0x31#8))

/-- R625: when the payload bits are the codes of some tokens and then end inside a code, at an internal node that is not
the root, UNPACK fails with MID_WALK. -/
def Obligations.UnpackMidWalk : Prop :=
  ∀ (s : State) (tr l r : HufTree) (toks : List Nat) (B p : Bits),
    s.valid.tree = true → s.valid.pk = true → s.tree? = some tr → tr.symbols.Nodup →
    codeBits (codeTable tr) toks = .ok B → toks.length ≤ s.params.tokCap →
    p ≠ [] → tr.follow p = some (.node l r) →
    (bitsOfBytes s.pkBytes).take (8 * s.pkBytes.length - s.padLen.toNat) = B ++ p →
    ∃ t, exec .unpack s = .next t ∧ s.FailedWith t 0x02#8 0x09#8 0x31#8

/-- R626: after a walk that succeeds the padding bits must be 0; if any bit from the end of the payload to the end of the
packed buffer is 1, UNPACK fails with PAD_NONZERO. So if `pk` unpacks, any bytes of the same length that agree with it on
the payload bits and differ anywhere else are rejected (the first fact of R852). -/
def Obligations.UnpackRejectsNonzeroPadding : Prop :=
  (∀ (s : State) (tr : HufTree) (toks : List Nat) (j : Nat), s.valid.tree = true → s.valid.pk = true →
    s.tree? = some tr →
    walkBits s.params.tokCap tr tr []
      ((bitsOfBytes s.pkBytes).take (8 * s.pkBytes.length - s.padLen.toNat)) = .ok toks →
    8 * s.pkBytes.length - s.padLen.toNat ≤ j → j < 8 * s.pkBytes.length → packedBit s.pkBytes j = true →
    ∃ t, exec .unpack s = .next t ∧ s.FailedWith t 0x02#8 0x0A#8 0x31#8) ∧
  (∀ (cap : Nat) (tr : HufTree) (pk pk' : List Byte) (pad : Nat) (toks : List Nat),
    unpackTokens cap tr pk pad = .ok toks → pk'.length = pk.length →
    (∀ j, j < 8 * pk.length - pad → packedBit pk' j = packedBit pk j) → pk' ≠ pk →
    unpackTokens cap tr pk' pad = .error (.corrupt .padNonzero))

/-- R629: unpacking what PACK packed with a tree's code table gives the tokens back. -/
def Obligations.PackUnpackRoundTrip : Prop :=
  ∀ (tr : HufTree) (toks : List Nat) (pkCap tokCap : Nat) (pk : List Byte) (pad : Nat),
    tr.symbols.Nodup → (∀ x ∈ toks, x ∈ tr.symbols) → toks.length ≤ tokCap →
    packTokens (codeTable tr) pkCap toks = .ok (pk, pad) →
    unpackTokens tokCap tr pk pad = .ok toks

/-! ### Container -/

/-- R700 to R704: SERIALIZE writes the padding length, the node count, the tree in pre-order, the packed length and the
packed bytes, every integer little-endian, if they fit OUT_CAP, and fails with CAPACITY_EXCEEDED/OUT if they do not. -/
def Obligations.SerializeWritesTheArtifact : Prop :=
  ∀ (s : State) (tr : HufTree) (a : List Byte), s.params.wf = true → s.valid.tree = true → s.valid.pk = true →
    s.tree? = some tr →
    a = leBytes 4 s.padLen.toNat ++ leBytes 4 s.nodeCount.toNat ++ serTree tr ++ leBytes 8 s.pkLen.toNat ++
      s.pkBytes →
    (a.length ≤ s.params.outCap → ∃ t, exec .serialize s = .next t ∧
      t.outBytes = a ∧ t.outLen.toNat = a.length ∧ t.valid = s.valid ∧
      t.CompletedOk ∧ s.SameHostSide t ∧ s.SameTokens t ∧ s.SameTree t ∧ s.SameCodes t ∧ s.SamePacked t) ∧
    (s.params.outCap < a.length → ∃ t, exec .serialize s = .next t ∧ s.FailedWith t 0x05#8 0x02#8 0x40#8)

/-- R333 and R706: a tree of L leaves has 2L - 1 nodes and 4L - 1 tree bytes, and its artifact 15 + 4L + PK_LEN
bytes; the integer `leBytes` writes is the one `leValue` reads. -/
def Obligations.ArtifactLength : Prop :=
  (∀ (tr : HufTree) (count pad : Nat) (pk : List Byte),
    tr.nodes = 2 * tr.symbols.length - 1 ∧ (serTree tr).length = 4 * tr.symbols.length - 1 ∧
    (artifact tr count pk pad).length = 15 + 4 * tr.symbols.length + pk.length) ∧
  (∀ n v : Nat, (leBytes n v).length = n ∧ leValue (leBytes n v) = v % 2 ^ (8 * n))

/-- R710 and the first half of R723: PARSE accepts every artifact of a tree fit for the core and loads exactly that
tree, those packed bytes and that padding. -/
def Obligations.ParseLoadsEveryArtifact : Prop :=
  ∀ (s : State) (tr : HufTree) (pk : List Byte) (pad : Nat), s.params.wf = true →
    s.inLen.toNat ≤ s.params.inCap → HufTreeOk s.params.ceiling tr → pad ≤ 7 → (pk = [] → pad = 0) →
    pk.length ≤ s.params.pkCap → s.inBytes = artifact tr tr.nodes pk pad →
    ∃ t, exec .parse s = .next t ∧
      t.tree? = some tr ∧ t.root = 0 ∧ t.nodeCount.toNat = tr.nodes ∧
      t.pkBytes = pk ∧ t.pkLen.toNat = pk.length ∧ t.padLen.toNat = pad ∧
      t.valid = ⟨false, true, false, true⟩ ∧ t.tokLen = 0#32 ∧
      t.CompletedOk ∧ s.SameHostSide t ∧ s.SameOut t

/-- R722 and the second half of R723: whatever PARSE accepts is the artifact of the tree and the packed buffer it loads,
so SERIALIZE would give it back byte for byte. -/
def Obligations.ParseAcceptsOnlyArtifacts : Prop :=
  ∀ s t : State, s.params.wf = true → exec .parse s = .next t → t.err = false →
    ∃ tr, t.tree? = some tr ∧ HufTreeOk s.params.ceiling tr ∧ tr.nodes = t.nodeCount.toNat ∧
      (t.pkLen = 0#32 → t.padLen = 0#3) ∧
      s.inBytes = artifact tr t.nodeCount.toNat t.pkBytes t.padLen.toNat

/-- R711 to R713 in the order of R720: what the header fields of an artifact are rejected for, and the IN check before
them. -/
def Obligations.ParseHeaderErrors : Prop :=
  ∀ s : State,
    (s.params.inCap < s.inLen.toNat → ∃ t, exec .parse s = .next t ∧ s.FailedWith t 0x05#8 0x01#8 0x41#8) ∧
    (s.inLen.toNat ≤ s.params.inCap →
      (s.inLen.toNat < 4 → ∃ t, exec .parse s = .next t ∧ s.FailedWith t 0x02#8 0x01#8 0x41#8) ∧
      (4 ≤ s.inLen.toNat → 7 < leValue (s.inBytes.take 4) →
        ∃ t, exec .parse s = .next t ∧ s.FailedWith t 0x02#8 0x02#8 0x41#8) ∧
      (4 ≤ s.inLen.toNat → s.inLen.toNat < 8 → leValue (s.inBytes.take 4) ≤ 7 →
        ∃ t, exec .parse s = .next t ∧ s.FailedWith t 0x02#8 0x01#8 0x41#8) ∧
      (8 ≤ s.inLen.toNat → leValue (s.inBytes.take 4) ≤ 7 →
        (leValue ((s.inBytes.drop 4).take 4) = 0 ∨
          2 * s.params.ceiling - 1 < leValue ((s.inBytes.drop 4).take 4)) →
        ∃ t, exec .parse s = .next t ∧ s.FailedWith t 0x02#8 0x06#8 0x41#8))

/-- R714 to R719 in the order of R720: what one node is rejected for; and, past the header, what PARSE then fails with: the
error of the first node rejected, TREE_SHAPE for a tree incomplete at the count, TRUNCATED for a short length field,
LEN_MISMATCH for a length that is not that of the bytes after it, BAD_PAD for padding without payload, and
CAPACITY_EXCEEDED/PK for a payload beyond PK_CAP. -/
def Obligations.ParseNodeErrors : Prop :=
  (∀ (ceiling : Nat) (freq : Nat → BitVec 32) (p : ParseState),
    (p.need = 0 → parseNode ceiling freq p = .error (.corrupt .treeShape)) ∧
    (p.need ≠ 0 →
      (p.rest = [] → parseNode ceiling freq p = .error (.corrupt .truncated)) ∧
      (∀ tag rest, p.rest = tag :: rest → 2 ≤ tag.toNat →
        parseNode ceiling freq p = .error (.corrupt .badTag)) ∧
      (∀ rest, p.rest = 0x01#8 :: rest → rest.length < 2 →
        parseNode ceiling freq p = .error (.corrupt .truncated)) ∧
      (∀ lo hi rest, p.rest = 0x01#8 :: lo :: hi :: rest → ceiling ≤ lo.toNat + 256 * hi.toNat →
        parseNode ceiling freq p = .error (.corrupt .badSymbol)) ∧
      (∀ lo hi rest, p.rest = 0x01#8 :: lo :: hi :: rest → lo.toNat + 256 * hi.toNat < ceiling →
        lo.toNat + 256 * hi.toNat ∈ p.seen →
        parseNode ceiling freq p = .error (.corrupt .dupSymbol)))) ∧
  (∀ (s : State) (pad count : Nat) (rest : List Byte), s.inLen.toNat ≤ s.params.inCap → pad ≤ 7 → 1 ≤ count →
    count ≤ 2 * s.params.ceiling - 1 → count < 2 ^ 32 → s.inBytes = leBytes 4 pad ++ leBytes 4 count ++ rest →
    (∀ (n : Nat) (q : ParseState) (d : Corrupt), n < count →
      parseNodes s.params.ceiling (Config.freeFreq s.draws) n ⟨rest, 1, [], [], []⟩ = .ok q →
      parseNode s.params.ceiling (Config.freeFreq s.draws) q = .error (.corrupt d) →
      ∃ t, exec .parse s = .next t ∧ s.FailedWith t 0x02#8 d.detail 0x41#8) ∧
    (∀ p : ParseState,
      parseNodes s.params.ceiling (Config.freeFreq s.draws) count ⟨rest, 1, [], [], []⟩ = .ok p →
      (p.need ≠ 0 → ∃ t, exec .parse s = .next t ∧ s.FailedWith t 0x02#8 0x06#8 0x41#8) ∧
      (p.need = 0 →
        (p.rest.length < 8 → ∃ t, exec .parse s = .next t ∧ s.FailedWith t 0x02#8 0x01#8 0x41#8) ∧
        (8 ≤ p.rest.length →
          (leValue (p.rest.take 8) ≠ p.rest.length - 8 →
            ∃ t, exec .parse s = .next t ∧ s.FailedWith t 0x02#8 0x07#8 0x41#8) ∧
          (leValue (p.rest.take 8) = 0 → p.rest.length = 8 → 1 ≤ pad →
            ∃ t, exec .parse s = .next t ∧ s.FailedWith t 0x02#8 0x02#8 0x41#8) ∧
          (leValue (p.rest.take 8) = p.rest.length - 8 → s.params.pkCap < p.rest.length - 8 →
            ∃ t, exec .parse s = .next t ∧ s.FailedWith t 0x05#8 0x04#8 0x41#8)))))

/-- R711, R712, R714, R715, R717 and R718: a proper prefix of an artifact fails, with TRUNCATED when the cut is before
the payload and LEN_MISMATCH when it is inside it, and so does an artifact with bytes after its end, with
LEN_MISMATCH. -/
def Obligations.CutOrExtendedArtifactsAreRejected : Prop :=
  ∀ (s : State) (tr : HufTree) (pk : List Byte) (pad : Nat), s.params.wf = true →
    s.inLen.toNat ≤ s.params.inCap → HufTreeOk s.params.ceiling tr → pad ≤ 7 → (pk = [] → pad = 0) →
    pk.length ≤ s.params.pkCap →
    (∀ tail, artifact tr tr.nodes pk pad = s.inBytes ++ tail → pk.length < tail.length →
      ∃ t, exec .parse s = .next t ∧ s.FailedWith t 0x02#8 0x01#8 0x41#8) ∧
    (∀ tail, artifact tr tr.nodes pk pad = s.inBytes ++ tail → tail ≠ [] → tail.length ≤ pk.length →
      ∃ t, exec .parse s = .next t ∧ s.FailedWith t 0x02#8 0x07#8 0x41#8) ∧
    (∀ tail, s.inBytes = artifact tr tr.nodes pk pad ++ tail → tail ≠ [] →
      ∃ t, exec .parse s = .next t ∧ s.FailedWith t 0x02#8 0x07#8 0x41#8)

/-! ### Pipeline -/

/-- R830 and R832: COMPRESS succeeds exactly as its stages say on every non-empty input whose tokens, packed bits and
artifact fit the capacities, leaving all four valid bits set and every intermediate result readable; and they fit
whenever TOK_CAP takes IN_LEN tokens, and PK_CAP and OUT_CAP the bytes of IN_LEN codes of at most IN_LEN bits each. -/
def Obligations.CompressSucceedsOnEveryInputThatFits : Prop :=
  (∀ (s : State) (toks : List Nat) (tr : HufTree) (pk : List Byte) (pad : Nat), s.params.wf = true →
    s.inLen ≠ 0#32 → s.inLen.toNat ≤ s.params.inCap →
    lzwEncode s.params.ceiling s.params.tokCap s.inBytes = .ok toks →
    readTree (Sparse.ofList (hufBuild s.params.ceiling toks).arena) s.params.nodeCap
      (hufBuild s.params.ceiling toks).root = some tr →
    packTokens (codeTable tr) s.params.pkCap toks = .ok (pk, pad) →
    (artifact tr tr.nodes pk pad).length ≤ s.params.outCap →
    ∃ t, exec .compress s = .next t ∧
      t.tokens = toks ∧ t.tokLen.toNat = toks.length ∧ t.tree? = some tr ∧ t.nodeCount.toNat = tr.nodes ∧
      t.codes = codeTable tr ∧ t.pkBytes = pk ∧ t.pkLen.toNat = pk.length ∧ t.padLen.toNat = pad ∧
      t.outBytes = artifact tr tr.nodes pk pad ∧ t.outLen.toNat = t.outBytes.length ∧
      t.valid = ⟨true, true, true, true⟩ ∧ t.CompletedOk ∧ s.SameHostSide t) ∧
  (∀ s : State, s.params.wf = true → s.inLen ≠ 0#32 → s.inLen.toNat ≤ s.params.inCap →
    s.inLen.toNat ≤ s.params.tokCap → s.inLen.toNat * s.inLen.toNat ≤ 8 * s.params.pkCap →
    15 + 4 * s.inLen.toNat + (s.inLen.toNat * s.inLen.toNat + 7) / 8 ≤ s.params.outCap →
    ∃ t, exec .compress s = .next t ∧ t.err = false ∧ t.valid = ⟨true, true, true, true⟩ ∧
      1 ≤ t.tokLen.toNat ∧ 1 ≤ t.pkLen.toNat)

/-- R831 and the IN checks of R830 and R840, each with the composite's own opcode. -/
def Obligations.CompositesCheckTheirInputFirst : Prop :=
  ∀ s : State,
    (s.inLen = 0#32 → ∃ t, exec .compress s = .next t ∧ s.FailedWith t 0x01#8 0x00#8 0x01#8) ∧
    (s.inLen ≠ 0#32 → s.params.inCap < s.inLen.toNat →
      ∃ t, exec .compress s = .next t ∧ s.FailedWith t 0x05#8 0x01#8 0x01#8) ∧
    (s.params.inCap < s.inLen.toNat →
      ∃ t, exec .decompress s = .next t ∧ s.FailedWith t 0x05#8 0x01#8 0x02#8)

/-- R810 and R811: a composite that passes its own checks comes to the same results as its stage commands issued one
after the other, if they succeed; the first that fails gives the composite's error. -/
def Obligations.CompositesEqualTheirStages : Prop :=
  ∀ s s1 s2 s3 s4 s5 c d : State, s.params.wf = true → s.inLen.toNat ≤ s.params.inCap →
    exec .compress s = .next c → exec .decompress s = .next d →
    (s.inLen ≠ 0#32 → exec .lzwEncode s = .next s1 →
      (s1.err = true → c.results = s1.results) ∧
      (s1.err = false → exec .hufBuild s1 = .next s2 →
        (s2.err = true → c.results = s2.results) ∧
        (s2.err = false → exec .hufCodegen s2 = .next s3 →
          (s3.err = true → c.results = s3.results) ∧
          (s3.err = false → exec .pack s3 = .next s4 →
            (s4.err = true → c.results = s4.results) ∧
            (s4.err = false → exec .serialize s4 = .next s5 → c.results = s5.results))))) ∧
    (exec .parse s = .next s1 →
      (s1.err = true → d.results = s1.results) ∧
      (s1.err = false → exec .unpack s1 = .next s2 →
        (s2.err = true → d.results = s2.results) ∧
        (s2.err = false → exec .lzwDecode s2 = .next s3 → d.results = s3.results)))

/-- R840 and R841: DECOMPRESS on any artifact whose packed bits unpack and whose tokens decode, whether COMPRESS made it
or not, writes the decoded bytes and leaves TOK_V, TREE_V and PK_V set and CODES_V clear. -/
def Obligations.DecompressDecodesEveryArtifact : Prop :=
  ∀ (s : State) (tr : HufTree) (pk : List Byte) (pad : Nat) (toks : List Nat) (b : List Byte),
    s.params.wf = true → s.inLen.toNat ≤ s.params.inCap →
    HufTreeOk s.params.ceiling tr → pad ≤ 7 → (pk = [] → pad = 0) → pk.length ≤ s.params.pkCap →
    s.inBytes = artifact tr tr.nodes pk pad →
    unpackTokens s.params.tokCap tr pk pad = .ok toks →
    lzwDecode s.params.ceiling s.params.outCap toks = .ok b →
    ∃ t, exec .decompress s = .next t ∧
      t.outBytes = b ∧ t.outLen.toNat = b.length ∧ t.tokens = toks ∧ t.tokLen.toNat = toks.length ∧
      t.tree? = some tr ∧ t.nodeCount.toNat = tr.nodes ∧
      t.pkBytes = pk ∧ t.pkLen.toNat = pk.length ∧ t.padLen.toNat = pad ∧
      t.valid = ⟨true, true, false, true⟩ ∧ t.CompletedOk ∧ s.SameHostSide t

/-- R850: what COMPRESS made of `b`, copied to IN_MEM, DECOMPRESS turns back into `b`. -/
def Obligations.PipelineRoundTrip : Prop :=
  ∀ s t u : State, s.params.wf = true → s.inLen.toNat ≤ s.params.outCap →
    exec .compress s = .next t → t.err = false →
    u.params = s.params → u.inLen = t.outLen → u.inBytes = t.outBytes → u.inLen.toNat ≤ u.params.inCap →
    ∃ v, exec .decompress u = .next v ∧ v.err = false ∧ v.outLen = s.inLen ∧ v.outBytes = s.inBytes

/-- R851, and the same of DECOMPRESS: the results of a composite depend on the input bytes and the parameters alone;
nothing left from earlier commands reaches them. -/
def Obligations.CompositesDependOnTheInputOnly : Prop :=
  ∀ s u t v : State, s.params.wf = true → u.params = s.params → u.inLen = s.inLen → u.inBytes = s.inBytes →
    (exec .compress s = .next t → exec .compress u = .next v → t.results = v.results) ∧
    (exec .decompress s = .next t → exec .decompress u = .next v → t.results = v.results)

/-- R802, R804 and R1020: in states the invariant allows, the results of a command depend neither on CTRL, STATUS, ERROR
or PROGRESS, nor on the host's reads before it completes (which in the model advance `draws` and `rdata`, log 5). -/
def Obligations.ResultsDoNotDependOnStatusOrReads : Prop :=
  ∀ (i : Instr) (s t u : State) (n : Nat) (r : Word) (a : List Event) (q d e : Bool) (x : ErrorReg) (p : BitVec 7),
    s.Inv → exec i s = .next t →
    exec i { s with draws := n, rdata := r, agenda := a, irqEn := q, done := d, err := e, error := x, progress := p } =
      .next u →
    t.results = u.results

/-- R911: what a buffer holds while its valid bit is 0 reaches no result. -/
def Obligations.UnspecifiedBuffersAreNotRead : Prop :=
  ∀ (i : Instr) (s u t v : State),
    u = { s with tokMem := u.tokMem, arena := u.arena, root := u.root, codes := u.codes, pkMem := u.pkMem } →
    (s.valid.tok = true → u.tokMem = s.tokMem) →
    (s.valid.tree = true → u.arena = s.arena ∧ u.root = s.root) →
    (s.valid.codes = true → u.codes = s.codes) →
    (s.valid.pk = true → u.pkMem = s.pkMem) →
    exec i s = .next t → exec i u = .next v → t.results = v.results

/-! ### The bus -/

/-- R1011: while BUSY, a write to CMD, IN_LEN, the IN window or any read-only or reserved location changes nothing; a
CTRL write without bit 1 stores IRQ_EN, and a STATUS write with bit 1 clears DONE. -/
def Obligations.WritesWhileBusyAreIgnored : Prop :=
  ∀ (s : State) (addr v : Word) (size : Nat) (rest : List Event), s.busy = true →
    s.agenda = .host (.write addr size v) :: rest → AccessAdmitted addr size →
    (addr ≠ 0x004#32 → addr ≠ 0x00C#32 → step s = .next { s with agenda := rest }) ∧
    (addr = 0x004#32 → v.getLsbD 1 = false → step s = .next { s with agenda := rest, irqEn := v.getLsbD 0 }) ∧
    (addr = 0x00C#32 → v.getLsbD 1 = true → step s = .next { s with agenda := rest, done := false }) ∧
    (addr = 0x00C#32 → v.getLsbD 1 = false → step s = .next { s with agenda := rest })

/-- R201, R206, R103 and R116: in every state a write to a read-only register, to a reserved offset or range, or to the
OUT, TOK or PK window changes nothing. -/
def Obligations.WritesToReadOnlyLocationsAreIgnored : Prop :=
  ∀ (s : State) (addr v : Word) (size : Nat) (rest : List Event),
    s.agenda = .host (.write addr size v) :: rest → AccessAdmitted addr size →
    addr ≠ 0x004#32 → addr ≠ 0x008#32 → addr ≠ 0x00C#32 → addr ≠ 0x014#32 →
    (addr.toNat < 0x10000000 ∨ 0x20000000 ≤ addr.toNat) →
    step s = .next { s with agenda := rest }

/-- R204, R202 and R210: while IDLE, a write to the IN window stores its bytes little-endian in IN_MEM, byte by byte
where the capacity reaches, and changes no other byte and no register; a read there gives the bytes back. -/
def Obligations.InWindowWriteThenRead : Prop :=
  ∀ (s : State) (addr v : Word) (size off : Nat) (rest : List Event), s.busy = false →
    s.agenda = .host (.write addr size v) :: rest → AccessAdmitted addr size →
    addr.toNat = 0x10000000 + off → off + size ≤ 0x10000000 →
    ∃ t, step s = .next t ∧ t = { s with agenda := rest, inMem := t.inMem } ∧
      (∀ i, t.inByte i =
        if off ≤ i ∧ i < off + size ∧ i < s.params.inCap then v.extractLsb' (8 * (i - off)) 8 else s.inByte i) ∧
      (off + size ≤ s.params.inCap → readValue t addr size = BitVec.ofNat 32 (v.toNat % 2 ^ (8 * size)))

/-- R202 and R201: bytes at or beyond a window's capacity, and the reserved ranges, read 0 in every state. -/
def Obligations.BytesBeyondCapacityReadZero : Prop :=
  ∀ (s : State) (off lane : Nat), off < 0x10000000 →
    (s.params.inCap ≤ off → byteRead s (0x10000000 + off) lane = 0#8) ∧
    (s.params.outCap ≤ off → byteRead s (0x20000000 + off) lane = 0#8) ∧
    (2 * s.params.tokCap ≤ off → byteRead s (0x30000000 + off) lane = 0#8) ∧
    (s.params.pkCap ≤ off → byteRead s (0x40000000 + off) lane = 0#8) ∧
    (0x1000 ≤ off → byteRead s off lane = 0#8) ∧
    (∀ a, 0x50000000 ≤ a → byteRead s a lane = 0#8)

/-- R102 to R116, R215, R226 and R820: what a 4-byte read of the register page returns, and that it changes nothing of
the core. While BUSY the registers the engine writes are left out, but for PROGRESS, which is at most 100. -/
def Obligations.RegisterReads : Prop :=
  ∀ (s : State) (addr : Word) (rest : List Event), s.agenda = .host (.read addr 4) :: rest →
    addr.toNat < 0x1000 → addr.toNat % 4 = 0 →
    ∃ r, step s = .next { s with agenda := rest, rdata := r, draws := s.draws + 1 } ∧
      (addr = 0x000#32 → s.params.wf = true → r.toNat = s.params.ceiling) ∧
      (addr = 0x004#32 → r.toNat = if s.irqEn then 1 else 0) ∧
      (addr = 0x008#32 → r = 0#32) ∧
      (addr = 0x00C#32 → r.toNat =
        (if s.busy then 1 else 0) + (if s.done then 2 else 0) + (if s.err then 4 else 0)) ∧
      (addr = 0x010#32 → r.toNat = s.error.code.toNat + 256 * s.error.detail.toNat + 65536 * s.error.op.toNat) ∧
      (addr = 0x014#32 → r = s.inLen) ∧
      (s.busy = false →
        (addr = 0x018#32 → r = s.outLen) ∧ (addr = 0x01C#32 → r = s.tokLen) ∧ (addr = 0x020#32 → r = s.pkLen) ∧
        (addr = 0x024#32 → r.toNat = s.padLen.toNat) ∧
        (addr = 0x028#32 → r.toNat = (if s.valid.tok then 1 else 0) + (if s.valid.tree then 2 else 0) +
          (if s.valid.codes then 4 else 0) + (if s.valid.pk then 8 else 0)) ∧
        (addr = 0x02C#32 → r.toNat = s.nodeCount.toNat) ∧
        (addr = 0x030#32 → r.toNat = s.progress.toNat)) ∧
      (s.busy = true → addr = 0x030#32 → r.toNat ≤ 100) ∧
      (0x034 ≤ addr.toNat → r = 0#32)

/-- R205, R206, R210, R211 and R213: while IDLE, an admitted read of 1, 2 or 4 bytes of the OUT, TOK or PK window gives, in
byte `j` of the value, what the buffer holds at the byte `j` places on, for every such byte below the length: of OUT and
PK the byte itself, of TOK the low byte of a token at an even offset and its high byte at an odd one. The bytes of the
value above the size are 0, so a 2-byte read gives a whole token and a 4-byte read two. A read changes nothing of the
core. -/
def Obligations.WindowReadsShowTheResults : Prop :=
  ∀ (s : State) (addr : Word) (size k : Nat) (rest : List Event), s.params.wf = true → s.RegsOk → s.MemOk →
    s.busy = false → s.agenda = .host (.read addr size) :: rest → AccessAdmitted addr size →
    ∃ r, step s = .next { s with agenda := rest, draws := s.draws + 1, rdata := r } ∧ r.toNat < 2 ^ (8 * size) ∧
      (addr.toNat = 0x20000000 + k → ∀ j, j < size → k + j < s.outLen.toNat →
        r.extractLsb' (8 * j) 8 = s.outByte (k + j)) ∧
      (addr.toNat = 0x40000000 + k → ∀ j, j < size → k + j < s.pkLen.toNat →
        r.extractLsb' (8 * j) 8 = s.pkByte (k + j)) ∧
      (∀ j, addr.toNat + j = 0x30000000 + 2 * k → j < size → k < s.tokLen.toNat →
        r.extractLsb' (8 * j) 8 = BitVec.ofNat 8 (s.token k % 256)) ∧
      (∀ j, addr.toNat + j = 0x30000000 + 2 * k + 1 → j < size → k < s.tokLen.toNat →
        r.extractLsb' (8 * j) 8 = BitVec.ofNat 8 (s.token k / 256)) ∧
      (addr.toNat = 0x30000000 + 2 * k → size = 2 → k < s.tokLen.toNat → r.toNat = s.token k) ∧
      (addr.toNat = 0x30000000 + 4 * k → size = 4 → 2 * k + 1 < s.tokLen.toNat →
        r.toNat = s.token (2 * k) + 65536 * s.token (2 * k + 1))

/-- R104 and R106: a CTRL write without bit 1 stores bit 0 in IRQ_EN and a STATUS write clears DONE when its bit 1 is 1;
ERR and ERROR stay, in every state. -/
def Obligations.CtrlAndStatusWrites : Prop :=
  ∀ (s : State) (v : Word) (rest : List Event),
    (s.agenda = .host (.write 0x004#32 4 v) :: rest → v.getLsbD 1 = false →
      step s = .next { s with agenda := rest, irqEn := v.getLsbD 0 }) ∧
    (s.agenda = .host (.write 0x00C#32 4 v) :: rest →
      step s = .next { s with agenda := rest, done := s.done && !v.getLsbD 1 }) ∧
    (s.busy = false → s.agenda = .host (.write 0x014#32 4 v) :: rest →
      step s = .next { s with agenda := rest, inLen := v })

/-- R132, R1000 and R1001: the reset input and a CTRL write with bit 1 leave the same state, whatever ran before, BUSY
included: every register at its reset value, no command pending, IRQ deasserted, the parameters kept, and no memory
listing anything (their contents, ROOT's too, are any value). That the parameters stay is log 2, what an unlisted element
is log 6, log 7 and log 8, and the one event for the reset input log 16. -/
def Obligations.ResetsGiveTheResetState : Prop :=
  ∀ (s : State) (v : Word) (rest : List Event),
    (s.agenda = .hwReset :: rest ∨ (s.agenda = .host (.write 0x004#32 4 v) :: rest ∧ v.getLsbD 1 = true)) →
    ∃ t, step s = .next t ∧ t.agenda = rest ∧ t.params = s.params ∧
      t.engine = .idle ∧ t.done = false ∧ t.err = false ∧ t.error = ⟨0#8, 0#8, 0#8⟩ ∧ t.irqEn = false ∧
      t.irq = false ∧ t.inLen = 0#32 ∧ t.outLen = 0#32 ∧ t.tokLen = 0#32 ∧ t.pkLen = 0#32 ∧ t.padLen = 0#3 ∧
      t.nodeCount = 0#17 ∧ t.progress = 0#7 ∧ t.valid = ⟨false, false, false, false⟩ ∧
      (∀ i, Sparse.read t.inMem i = none ∧ Sparse.read t.outMem i = none ∧ Sparse.read t.tokMem i = none ∧
        Sparse.read t.pkMem i = none ∧ Sparse.read t.arena i = none ∧ Sparse.read t.codes i = none)

/-! ### Host programs -/

/-- R305 and R306: `WAIT` reads STATUS and goes back to its label while DONE = 0, and leaves when DONE = 1. The host's
line counter and names are the model's layer (log 19). -/
def Obligations.WaitSpinsUntilDone : Prop :=
  ∀ (pre post : List HostLine) (l n : Nat) (h : HostCpu) (s : State), s.agenda = [] →
    h.pc = pre.length → l ∉ hostLabels pre →
    ∃ h' s', runHost (pre ++ pseudoWait l n ++ post) [true, true, true] h s = .next h' s' ∧
      h'.pc = (if s.done then pre.length + 3 else pre.length) ∧
      Sparse.read h'.names n = some s.statusWord ∧
      s' = { s with rdata := s.statusWord, draws := s.draws + 1 }

/-! ### Invariants -/

/-- The state after reset meets the invariant, for every instance whose parameters are legal. -/
def Obligations.ResetMeetsTheInvariant : Prop :=
  (∀ p : Params, p.wf = true → (State.resetOf p).Inv) ∧ State.reset.Inv

/-- The registers keep their legal values and their agreement (R106, R109 to R111, R117, R130 items 3 and 5, R320,
R322, R801, R820) through every step. -/
def Obligations.StepKeepsTheRegisters : Prop :=
  ∀ s t : State, s.RegsOk → step s = .next t → t.RegsOk

/-- R130, items 1 to 5, and the canonical form of every memory: every step keeps the whole invariant. -/
def Obligations.StepKeepsTheInvariant : Prop :=
  ∀ s t : State, s.Inv → step s = .next t → t.Inv
end

