-- ==== Sys2Proof/Laws/Sparse.lean ====
section
/-! SUPPORT. Sparse memories: read after write, the canonical form and what keeps it, the memory that lists a sequence,
and that every memory operation of the machine keeps the canonical form. -/

namespace Sys2Proof.Machine

variable {α : Type}

/-! ### Read after write -/

@[simp] theorem Sparse.read_nil (i : Nat) : Sparse.read ([] : Sparse α) i = none := rfl

theorem Sparse.read_cons (j : Nat) (v : α) (m : Sparse α) (i : Nat) :
    Sparse.read ((j, v) :: m) i = if j = i then some v else Sparse.read m i := rfl

@[simp] theorem Sparse.read_write_same (m : Sparse α) (i : Nat) (v : α) :
    Sparse.read (Sparse.write m i v) i = some v := by
  induction m with
  | nil => simp [Sparse.write, Sparse.read]
  | cons p m ih =>
    obtain ⟨j, u⟩ := p
    simp only [Sparse.write]
    split
    · simp [Sparse.read]
    · split
      · simp [Sparse.read]
      · simp only [Sparse.read]
        rw [if_neg (by omega), ih]

theorem Sparse.read_write_other (m : Sparse α) {i k : Nat} (v : α) (h : i ≠ k) :
    Sparse.read (Sparse.write m i v) k = Sparse.read m k := by
  induction m with
  | nil => simp [Sparse.write, Sparse.read, h]
  | cons p m ih =>
    obtain ⟨j, u⟩ := p
    simp only [Sparse.write]
    split
    · simp [Sparse.read, h]
    · split
      · subst_vars; simp [Sparse.read, h]
      · simp [Sparse.read, ih]

theorem Sparse.read_write (m : Sparse α) (i k : Nat) (v : α) :
    Sparse.read (Sparse.write m i v) k = if i = k then some v else Sparse.read m k := by
  split
  · subst_vars; simp
  · exact Sparse.read_write_other m v ‹_›

/-! ### The canonical form -/

theorem Sparse.wf_cons {j : Nat} {v : α} {m : Sparse α} :
    Sparse.wf ((j, v) :: m) = true ↔ (∀ p ∈ m, j < p.1) ∧ Sparse.wf m = true := by
  induction m generalizing j v with
  | nil => simp [Sparse.wf]
  | cons p m ih =>
    obtain ⟨k, u⟩ := p
    simp only [Sparse.wf, Bool.and_eq_true, decide_eq_true_eq, List.mem_cons, forall_eq_or_imp]
    rw [ih]
    exact ⟨fun ⟨h, h1, h2⟩ => ⟨⟨h, fun p hp => h.trans (h1 p hp)⟩, h1, h2⟩, fun ⟨⟨h, _⟩, h1, h2⟩ => ⟨h, h1, h2⟩⟩

/-- The canonical form is that the indices are strictly rising. -/
theorem Sparse.wf_iff_pairwise (m : Sparse α) :
    Sparse.wf m = true ↔ m.Pairwise (fun p q => p.1 < q.1) := by
  induction m with
  | nil => simp [Sparse.wf]
  | cons p m ih => obtain ⟨j, v⟩ := p; rw [Sparse.wf_cons, List.pairwise_cons, ih]

theorem Sparse.mem_write {m : Sparse α} {i : Nat} {v : α} {p : Nat × α} (h : p ∈ Sparse.write m i v) :
    p = (i, v) ∨ p ∈ m := by
  induction m with
  | nil => simpa [Sparse.write] using h
  | cons q m ih =>
    obtain ⟨j, u⟩ := q
    simp only [Sparse.write] at h
    split at h
    · simpa using h
    · split at h
      · simp only [List.mem_cons] at h ⊢; tauto
      · simp only [List.mem_cons] at h ⊢; tauto

/-- A write keeps the canonical form. -/
theorem Sparse.wf_write {m : Sparse α} (i : Nat) (v : α) (h : Sparse.wf m = true) :
    Sparse.wf (Sparse.write m i v) = true := by
  induction m with
  | nil => rfl
  | cons q m ih =>
    obtain ⟨j, u⟩ := q
    obtain ⟨h1, h2⟩ := Sparse.wf_cons.1 h
    simp only [Sparse.write]
    split
    · rw [Sparse.wf_cons]
      refine ⟨fun p hp => ?_, h⟩
      rcases List.mem_cons.1 hp with rfl | hp
      · assumption
      · exact lt_trans ‹_› (h1 p hp)
    · split
      · subst_vars; exact Sparse.wf_cons.2 ⟨h1, h2⟩
      · refine Sparse.wf_cons.2 ⟨fun p hp => ?_, ih h2⟩
        rcases Sparse.mem_write hp with rfl | hp
        · simp only; omega
        · exact h1 p hp

theorem Sparse.read_eq_none_of_lt {m : Sparse α} {i : Nat} (h : ∀ p ∈ m, i < p.1) : Sparse.read m i = none := by
  induction m with
  | nil => rfl
  | cons q m ih =>
    obtain ⟨j, u⟩ := q
    have hj : i < j := h (j, u) List.mem_cons_self
    rw [Sparse.read_cons, if_neg (by omega), ih fun p hp => h p (by simp [hp])]

theorem Sparse.isSome_read_iff {m : Sparse α} {i : Nat} :
    (Sparse.read m i).isSome = true ↔ i ∈ m.map Prod.fst := by
  induction m with
  | nil => simp
  | cons q m ih =>
    obtain ⟨j, u⟩ := q
    rw [Sparse.read_cons]
    split
    · simp_all
    · rw [ih]
      simp only [List.map_cons, List.mem_cons]
      constructor
      · exact Or.inr
      · rintro (rfl | h)
        · contradiction
        · exact h

/-- Canonical memories that read alike everywhere are equal data. -/
theorem Sparse.ext_of_wf {m n : Sparse α} (hm : Sparse.wf m = true) (hn : Sparse.wf n = true)
    (h : ∀ i, Sparse.read m i = Sparse.read n i) : m = n := by
  induction m generalizing n with
  | nil =>
    cases n with
    | nil => rfl
    | cons q n => obtain ⟨k, w⟩ := q; simpa [Sparse.read] using h k
  | cons p m ih =>
    obtain ⟨j, v⟩ := p
    obtain ⟨hm1, hm2⟩ := Sparse.wf_cons.1 hm
    cases n with
    | nil => simpa [Sparse.read] using h j
    | cons q n =>
      obtain ⟨k, w⟩ := q
      obtain ⟨hn1, hn2⟩ := Sparse.wf_cons.1 hn
      have hjk : j = k := by
        rcases lt_trichotomy j k with hlt | heq | hgt
        · have := h j
          rw [Sparse.read_cons, if_pos rfl, Sparse.read_cons, if_neg (by omega),
            Sparse.read_eq_none_of_lt fun p hp => hlt.trans (hn1 p hp)] at this
          simp at this
        · exact heq
        · have := h k
          rw [Sparse.read_cons k, if_pos rfl, Sparse.read_cons, if_neg (by omega),
            Sparse.read_eq_none_of_lt fun p hp => hgt.trans (hm1 p hp)] at this
          simp at this
      subst hjk
      have hv : v = w := by simpa [Sparse.read] using h j
      subst hv
      congr 1
      refine ih hm2 hn2 fun i => ?_
      by_cases hi : j = i
      · subst hi
        rw [Sparse.read_eq_none_of_lt hm1, Sparse.read_eq_none_of_lt hn1]
      · simpa [Sparse.read, hi] using h i

/-! ### The memory that lists a sequence -/

theorem Sparse.read_listFrom (l : List α) (n i : Nat) :
    Sparse.read (Sparse.listFrom n l) i = if n ≤ i then l[i - n]? else none := by
  induction l generalizing n with
  | nil => simp [Sparse.listFrom]
  | cons x l ih =>
    rw [Sparse.listFrom, Sparse.read_cons, ih]
    by_cases h : n = i
    · simp [h]
    · rw [if_neg h]
      by_cases h' : n + 1 ≤ i
      · rw [if_pos h', if_pos (by omega), show i - n = (i - (n + 1)) + 1 by omega, List.getElem?_cons_succ]
      · rw [if_neg h', if_neg (by omega)]

/-- Reading the memory that lists `l` gives `l`, and nothing beyond it. -/
@[simp] theorem Sparse.read_ofList (l : List α) (i : Nat) : Sparse.read (Sparse.ofList l) i = l[i]? := by
  simp [Sparse.ofList, Sparse.read_listFrom]

theorem Sparse.le_of_mem_listFrom {l : List α} {n : Nat} {p : Nat × α} (h : p ∈ Sparse.listFrom n l) : n ≤ p.1 := by
  induction l generalizing n with
  | nil => simp [Sparse.listFrom] at h
  | cons x l ih =>
    rcases List.mem_cons.1 h with rfl | h
    · exact le_rfl
    · exact (Nat.le_succ n).trans (ih h)

theorem Sparse.wf_listFrom (l : List α) (n : Nat) : Sparse.wf (Sparse.listFrom n l) = true := by
  induction l generalizing n with
  | nil => rfl
  | cons x l ih => exact Sparse.wf_cons.2 ⟨fun _ hp => Sparse.le_of_mem_listFrom hp, ih (n + 1)⟩

/-- The memory that lists a sequence is in canonical form. -/
@[simp] theorem Sparse.wf_ofList (l : List α) : Sparse.wf (Sparse.ofList l) = true := Sparse.wf_listFrom l 0

@[simp] theorem Sparse.wf_nil : Sparse.wf ([] : Sparse α) = true := rfl

@[simp] theorem Memory.wf_nil : Memory.wf [] = true := rfl

theorem Memory.wf_write {m : Memory} (i : Nat) (b : Byte) (h : Memory.wf m = true) :
    Memory.wf (Sparse.write m i b) = true := Sparse.wf_write i b h

@[simp] theorem Memory.wf_ofList (l : List Byte) : Memory.wf (Sparse.ofList l) = true := Sparse.wf_ofList l

/-! ### The memory operations of the machine keep the canonical form -/

/-- A byte stored over the bus keeps IN_MEM canonical. -/
theorem inWrite_inMem_wf {s : State} (off : Nat) (b : Byte) (h : Memory.wf s.inMem = true) :
    Memory.wf (inWrite s off b).inMem = true := by
  unfold inWrite
  split
  · exact h
  · split
    · exact h
    · exact Memory.wf_write off b h

theorem byteWrite_inMem_wf {s : State} (a : Nat) (b : Byte) (h : Memory.wf s.inMem = true) :
    Memory.wf (byteWrite s a b).inMem = true := by
  unfold byteWrite
  split
  · exact inWrite_inMem_wf _ b h
  · exact h

/-- A whole bus write keeps IN_MEM canonical. -/
theorem bytesWrite_inMem_wf {s : State} (a : Nat) (v : Word) (n : Nat) (h : Memory.wf s.inMem = true) :
    Memory.wf (bytesWrite s a v n).inMem = true := by
  induction n with
  | zero => exact h
  | succ n ih => exact byteWrite_inMem_wf _ _ ih

/-- A code table is in canonical form. -/
theorem codeTable_wf (tree : HufTree) : Sparse.wf (codeTable tree) = true := by
  unfold codeTable
  generalize treeCodes tree = l
  suffices ∀ m : Sparse Bits, Sparse.wf m = true →
      Sparse.wf (l.foldl (fun m c => Sparse.write m c.1 c.2) m) = true from this [] rfl
  induction l with
  | nil => exact fun m h => h
  | cons c l ih => exact fun m h => ih _ (Sparse.wf_write _ _ h)

/-- The memories after reset are in canonical form, for every choice of parameters. -/
theorem resetOf_memories_wf (p : Params) :
    Memory.wf (State.resetOf p).inMem = true ∧ Memory.wf (State.resetOf p).outMem = true ∧
    Sparse.wf (State.resetOf p).tokMem = true ∧ Memory.wf (State.resetOf p).pkMem = true ∧
    Sparse.wf (State.resetOf p).arena = true ∧ Sparse.wf (State.resetOf p).codes = true :=
  ⟨rfl, rfl, rfl, rfl, rfl, rfl⟩

end Sys2Proof.Machine
end

