-- ==== Sys2Proof/Laws/State.lean ====
section
/-! SUPPORT. One lemma per field per named update of State, so that no proof unfolds a record update. -/

namespace Sys2Proof.Machine

variable (s : State) (i : Instr) (e : CmdError) (op : Byte) (t : List Nat) (b : List Byte) (a : List Node)
variable (c : Sparse Bits) (p r n : Nat)

/-! ### dropTokens -/

@[simp] theorem State.dropTokens_params : s.dropTokens.params = s.params := rfl
@[simp] theorem State.dropTokens_agenda : s.dropTokens.agenda = s.agenda := rfl
@[simp] theorem State.dropTokens_rdata : s.dropTokens.rdata = s.rdata := rfl
@[simp] theorem State.dropTokens_draws : s.dropTokens.draws = s.draws := rfl
@[simp] theorem State.dropTokens_inGen : s.dropTokens.inGen = s.inGen := rfl
@[simp] theorem State.dropTokens_irqEn : s.dropTokens.irqEn = s.irqEn := rfl
@[simp] theorem State.dropTokens_engine : s.dropTokens.engine = s.engine := rfl
@[simp] theorem State.dropTokens_done : s.dropTokens.done = s.done := rfl
@[simp] theorem State.dropTokens_err : s.dropTokens.err = s.err := rfl
@[simp] theorem State.dropTokens_error : s.dropTokens.error = s.error := rfl
@[simp] theorem State.dropTokens_inLen : s.dropTokens.inLen = s.inLen := rfl
@[simp] theorem State.dropTokens_outLen : s.dropTokens.outLen = s.outLen := rfl
@[simp] theorem State.dropTokens_tokLen : s.dropTokens.tokLen = 0#32 := rfl
@[simp] theorem State.dropTokens_pkLen : s.dropTokens.pkLen = s.pkLen := rfl
@[simp] theorem State.dropTokens_padLen : s.dropTokens.padLen = s.padLen := rfl
@[simp] theorem State.dropTokens_valid : s.dropTokens.valid = { s.valid with tok := false } := rfl
@[simp] theorem State.dropTokens_nodeCount : s.dropTokens.nodeCount = s.nodeCount := rfl
@[simp] theorem State.dropTokens_progress : s.dropTokens.progress = s.progress := rfl
@[simp] theorem State.dropTokens_inMem : s.dropTokens.inMem = s.inMem := rfl
@[simp] theorem State.dropTokens_outMem : s.dropTokens.outMem = s.outMem := rfl
@[simp] theorem State.dropTokens_tokMem : s.dropTokens.tokMem = [] := rfl
@[simp] theorem State.dropTokens_pkMem : s.dropTokens.pkMem = s.pkMem := rfl
@[simp] theorem State.dropTokens_arena : s.dropTokens.arena = s.arena := rfl
@[simp] theorem State.dropTokens_root : s.dropTokens.root = s.root := rfl
@[simp] theorem State.dropTokens_codes : s.dropTokens.codes = s.codes := rfl

/-! ### dropTree -/

@[simp] theorem State.dropTree_params : s.dropTree.params = s.params := rfl
@[simp] theorem State.dropTree_agenda : s.dropTree.agenda = s.agenda := rfl
@[simp] theorem State.dropTree_rdata : s.dropTree.rdata = s.rdata := rfl
@[simp] theorem State.dropTree_draws : s.dropTree.draws = s.draws := rfl
@[simp] theorem State.dropTree_inGen : s.dropTree.inGen = s.inGen := rfl
@[simp] theorem State.dropTree_irqEn : s.dropTree.irqEn = s.irqEn := rfl
@[simp] theorem State.dropTree_engine : s.dropTree.engine = s.engine := rfl
@[simp] theorem State.dropTree_done : s.dropTree.done = s.done := rfl
@[simp] theorem State.dropTree_err : s.dropTree.err = s.err := rfl
@[simp] theorem State.dropTree_error : s.dropTree.error = s.error := rfl
@[simp] theorem State.dropTree_inLen : s.dropTree.inLen = s.inLen := rfl
@[simp] theorem State.dropTree_outLen : s.dropTree.outLen = s.outLen := rfl
@[simp] theorem State.dropTree_tokLen : s.dropTree.tokLen = s.tokLen := rfl
@[simp] theorem State.dropTree_pkLen : s.dropTree.pkLen = s.pkLen := rfl
@[simp] theorem State.dropTree_padLen : s.dropTree.padLen = s.padLen := rfl
@[simp] theorem State.dropTree_valid : s.dropTree.valid = { s.valid with tree := false } := rfl
@[simp] theorem State.dropTree_nodeCount : s.dropTree.nodeCount = 0#17 := rfl
@[simp] theorem State.dropTree_progress : s.dropTree.progress = s.progress := rfl
@[simp] theorem State.dropTree_inMem : s.dropTree.inMem = s.inMem := rfl
@[simp] theorem State.dropTree_outMem : s.dropTree.outMem = s.outMem := rfl
@[simp] theorem State.dropTree_tokMem : s.dropTree.tokMem = s.tokMem := rfl
@[simp] theorem State.dropTree_pkMem : s.dropTree.pkMem = s.pkMem := rfl
@[simp] theorem State.dropTree_arena : s.dropTree.arena = [] := rfl
@[simp] theorem State.dropTree_root : s.dropTree.root = Config.freeRoot s.draws := rfl
@[simp] theorem State.dropTree_codes : s.dropTree.codes = s.codes := rfl

/-! ### dropCodes -/

@[simp] theorem State.dropCodes_params : s.dropCodes.params = s.params := rfl
@[simp] theorem State.dropCodes_agenda : s.dropCodes.agenda = s.agenda := rfl
@[simp] theorem State.dropCodes_rdata : s.dropCodes.rdata = s.rdata := rfl
@[simp] theorem State.dropCodes_draws : s.dropCodes.draws = s.draws := rfl
@[simp] theorem State.dropCodes_inGen : s.dropCodes.inGen = s.inGen := rfl
@[simp] theorem State.dropCodes_irqEn : s.dropCodes.irqEn = s.irqEn := rfl
@[simp] theorem State.dropCodes_engine : s.dropCodes.engine = s.engine := rfl
@[simp] theorem State.dropCodes_done : s.dropCodes.done = s.done := rfl
@[simp] theorem State.dropCodes_err : s.dropCodes.err = s.err := rfl
@[simp] theorem State.dropCodes_error : s.dropCodes.error = s.error := rfl
@[simp] theorem State.dropCodes_inLen : s.dropCodes.inLen = s.inLen := rfl
@[simp] theorem State.dropCodes_outLen : s.dropCodes.outLen = s.outLen := rfl
@[simp] theorem State.dropCodes_tokLen : s.dropCodes.tokLen = s.tokLen := rfl
@[simp] theorem State.dropCodes_pkLen : s.dropCodes.pkLen = s.pkLen := rfl
@[simp] theorem State.dropCodes_padLen : s.dropCodes.padLen = s.padLen := rfl
@[simp] theorem State.dropCodes_valid : s.dropCodes.valid = { s.valid with codes := false } := rfl
@[simp] theorem State.dropCodes_nodeCount : s.dropCodes.nodeCount = s.nodeCount := rfl
@[simp] theorem State.dropCodes_progress : s.dropCodes.progress = s.progress := rfl
@[simp] theorem State.dropCodes_inMem : s.dropCodes.inMem = s.inMem := rfl
@[simp] theorem State.dropCodes_outMem : s.dropCodes.outMem = s.outMem := rfl
@[simp] theorem State.dropCodes_tokMem : s.dropCodes.tokMem = s.tokMem := rfl
@[simp] theorem State.dropCodes_pkMem : s.dropCodes.pkMem = s.pkMem := rfl
@[simp] theorem State.dropCodes_arena : s.dropCodes.arena = s.arena := rfl
@[simp] theorem State.dropCodes_root : s.dropCodes.root = s.root := rfl
@[simp] theorem State.dropCodes_codes : s.dropCodes.codes = [] := rfl

/-! ### dropPacked -/

@[simp] theorem State.dropPacked_params : s.dropPacked.params = s.params := rfl
@[simp] theorem State.dropPacked_agenda : s.dropPacked.agenda = s.agenda := rfl
@[simp] theorem State.dropPacked_rdata : s.dropPacked.rdata = s.rdata := rfl
@[simp] theorem State.dropPacked_draws : s.dropPacked.draws = s.draws := rfl
@[simp] theorem State.dropPacked_inGen : s.dropPacked.inGen = s.inGen := rfl
@[simp] theorem State.dropPacked_irqEn : s.dropPacked.irqEn = s.irqEn := rfl
@[simp] theorem State.dropPacked_engine : s.dropPacked.engine = s.engine := rfl
@[simp] theorem State.dropPacked_done : s.dropPacked.done = s.done := rfl
@[simp] theorem State.dropPacked_err : s.dropPacked.err = s.err := rfl
@[simp] theorem State.dropPacked_error : s.dropPacked.error = s.error := rfl
@[simp] theorem State.dropPacked_inLen : s.dropPacked.inLen = s.inLen := rfl
@[simp] theorem State.dropPacked_outLen : s.dropPacked.outLen = s.outLen := rfl
@[simp] theorem State.dropPacked_tokLen : s.dropPacked.tokLen = s.tokLen := rfl
@[simp] theorem State.dropPacked_pkLen : s.dropPacked.pkLen = 0#32 := rfl
@[simp] theorem State.dropPacked_padLen : s.dropPacked.padLen = 0#3 := rfl
@[simp] theorem State.dropPacked_valid : s.dropPacked.valid = { s.valid with pk := false } := rfl
@[simp] theorem State.dropPacked_nodeCount : s.dropPacked.nodeCount = s.nodeCount := rfl
@[simp] theorem State.dropPacked_progress : s.dropPacked.progress = s.progress := rfl
@[simp] theorem State.dropPacked_inMem : s.dropPacked.inMem = s.inMem := rfl
@[simp] theorem State.dropPacked_outMem : s.dropPacked.outMem = s.outMem := rfl
@[simp] theorem State.dropPacked_tokMem : s.dropPacked.tokMem = s.tokMem := rfl
@[simp] theorem State.dropPacked_pkMem : s.dropPacked.pkMem = [] := rfl
@[simp] theorem State.dropPacked_arena : s.dropPacked.arena = s.arena := rfl
@[simp] theorem State.dropPacked_root : s.dropPacked.root = s.root := rfl
@[simp] theorem State.dropPacked_codes : s.dropPacked.codes = s.codes := rfl

/-! ### putTokens -/

@[simp] theorem State.putTokens_params : (s.putTokens t).params = s.params := rfl
@[simp] theorem State.putTokens_agenda : (s.putTokens t).agenda = s.agenda := rfl
@[simp] theorem State.putTokens_rdata : (s.putTokens t).rdata = s.rdata := rfl
@[simp] theorem State.putTokens_draws : (s.putTokens t).draws = s.draws := rfl
@[simp] theorem State.putTokens_inGen : (s.putTokens t).inGen = s.inGen := rfl
@[simp] theorem State.putTokens_irqEn : (s.putTokens t).irqEn = s.irqEn := rfl
@[simp] theorem State.putTokens_engine : (s.putTokens t).engine = s.engine := rfl
@[simp] theorem State.putTokens_done : (s.putTokens t).done = s.done := rfl
@[simp] theorem State.putTokens_err : (s.putTokens t).err = s.err := rfl
@[simp] theorem State.putTokens_error : (s.putTokens t).error = s.error := rfl
@[simp] theorem State.putTokens_inLen : (s.putTokens t).inLen = s.inLen := rfl
@[simp] theorem State.putTokens_outLen : (s.putTokens t).outLen = s.outLen := rfl
@[simp] theorem State.putTokens_tokLen : (s.putTokens t).tokLen = BitVec.ofNat 32 t.length := rfl
@[simp] theorem State.putTokens_pkLen : (s.putTokens t).pkLen = s.pkLen := rfl
@[simp] theorem State.putTokens_padLen : (s.putTokens t).padLen = s.padLen := rfl
@[simp] theorem State.putTokens_valid : (s.putTokens t).valid = { s.valid with tok := true } := rfl
@[simp] theorem State.putTokens_nodeCount : (s.putTokens t).nodeCount = s.nodeCount := rfl
@[simp] theorem State.putTokens_progress : (s.putTokens t).progress = s.progress := rfl
@[simp] theorem State.putTokens_inMem : (s.putTokens t).inMem = s.inMem := rfl
@[simp] theorem State.putTokens_outMem : (s.putTokens t).outMem = s.outMem := rfl
@[simp] theorem State.putTokens_tokMem : (s.putTokens t).tokMem = Sparse.ofList (t.map (BitVec.ofNat 16)) := rfl
@[simp] theorem State.putTokens_pkMem : (s.putTokens t).pkMem = s.pkMem := rfl
@[simp] theorem State.putTokens_arena : (s.putTokens t).arena = s.arena := rfl
@[simp] theorem State.putTokens_root : (s.putTokens t).root = s.root := rfl
@[simp] theorem State.putTokens_codes : (s.putTokens t).codes = s.codes := rfl

/-! ### putTree -/

@[simp] theorem State.putTree_params : (s.putTree a r n).params = s.params := rfl
@[simp] theorem State.putTree_agenda : (s.putTree a r n).agenda = s.agenda := rfl
@[simp] theorem State.putTree_rdata : (s.putTree a r n).rdata = s.rdata := rfl
@[simp] theorem State.putTree_draws : (s.putTree a r n).draws = s.draws := rfl
@[simp] theorem State.putTree_inGen : (s.putTree a r n).inGen = s.inGen := rfl
@[simp] theorem State.putTree_irqEn : (s.putTree a r n).irqEn = s.irqEn := rfl
@[simp] theorem State.putTree_engine : (s.putTree a r n).engine = s.engine := rfl
@[simp] theorem State.putTree_done : (s.putTree a r n).done = s.done := rfl
@[simp] theorem State.putTree_err : (s.putTree a r n).err = s.err := rfl
@[simp] theorem State.putTree_error : (s.putTree a r n).error = s.error := rfl
@[simp] theorem State.putTree_inLen : (s.putTree a r n).inLen = s.inLen := rfl
@[simp] theorem State.putTree_outLen : (s.putTree a r n).outLen = s.outLen := rfl
@[simp] theorem State.putTree_tokLen : (s.putTree a r n).tokLen = s.tokLen := rfl
@[simp] theorem State.putTree_pkLen : (s.putTree a r n).pkLen = s.pkLen := rfl
@[simp] theorem State.putTree_padLen : (s.putTree a r n).padLen = s.padLen := rfl
@[simp] theorem State.putTree_valid : (s.putTree a r n).valid = { s.valid with tree := true } := rfl
@[simp] theorem State.putTree_nodeCount : (s.putTree a r n).nodeCount = BitVec.ofNat 17 n := rfl
@[simp] theorem State.putTree_progress : (s.putTree a r n).progress = s.progress := rfl
@[simp] theorem State.putTree_inMem : (s.putTree a r n).inMem = s.inMem := rfl
@[simp] theorem State.putTree_outMem : (s.putTree a r n).outMem = s.outMem := rfl
@[simp] theorem State.putTree_tokMem : (s.putTree a r n).tokMem = s.tokMem := rfl
@[simp] theorem State.putTree_pkMem : (s.putTree a r n).pkMem = s.pkMem := rfl
@[simp] theorem State.putTree_arena : (s.putTree a r n).arena = Sparse.ofList a := rfl
@[simp] theorem State.putTree_root : (s.putTree a r n).root = r := rfl
@[simp] theorem State.putTree_codes : (s.putTree a r n).codes = s.codes := rfl

/-! ### putCodes -/

@[simp] theorem State.putCodes_params : (s.putCodes c).params = s.params := rfl
@[simp] theorem State.putCodes_agenda : (s.putCodes c).agenda = s.agenda := rfl
@[simp] theorem State.putCodes_rdata : (s.putCodes c).rdata = s.rdata := rfl
@[simp] theorem State.putCodes_draws : (s.putCodes c).draws = s.draws := rfl
@[simp] theorem State.putCodes_inGen : (s.putCodes c).inGen = s.inGen := rfl
@[simp] theorem State.putCodes_irqEn : (s.putCodes c).irqEn = s.irqEn := rfl
@[simp] theorem State.putCodes_engine : (s.putCodes c).engine = s.engine := rfl
@[simp] theorem State.putCodes_done : (s.putCodes c).done = s.done := rfl
@[simp] theorem State.putCodes_err : (s.putCodes c).err = s.err := rfl
@[simp] theorem State.putCodes_error : (s.putCodes c).error = s.error := rfl
@[simp] theorem State.putCodes_inLen : (s.putCodes c).inLen = s.inLen := rfl
@[simp] theorem State.putCodes_outLen : (s.putCodes c).outLen = s.outLen := rfl
@[simp] theorem State.putCodes_tokLen : (s.putCodes c).tokLen = s.tokLen := rfl
@[simp] theorem State.putCodes_pkLen : (s.putCodes c).pkLen = s.pkLen := rfl
@[simp] theorem State.putCodes_padLen : (s.putCodes c).padLen = s.padLen := rfl
@[simp] theorem State.putCodes_valid : (s.putCodes c).valid = { s.valid with codes := true } := rfl
@[simp] theorem State.putCodes_nodeCount : (s.putCodes c).nodeCount = s.nodeCount := rfl
@[simp] theorem State.putCodes_progress : (s.putCodes c).progress = s.progress := rfl
@[simp] theorem State.putCodes_inMem : (s.putCodes c).inMem = s.inMem := rfl
@[simp] theorem State.putCodes_outMem : (s.putCodes c).outMem = s.outMem := rfl
@[simp] theorem State.putCodes_tokMem : (s.putCodes c).tokMem = s.tokMem := rfl
@[simp] theorem State.putCodes_pkMem : (s.putCodes c).pkMem = s.pkMem := rfl
@[simp] theorem State.putCodes_arena : (s.putCodes c).arena = s.arena := rfl
@[simp] theorem State.putCodes_root : (s.putCodes c).root = s.root := rfl
@[simp] theorem State.putCodes_codes : (s.putCodes c).codes = c := rfl

/-! ### putPacked -/

@[simp] theorem State.putPacked_params : (s.putPacked b p).params = s.params := rfl
@[simp] theorem State.putPacked_agenda : (s.putPacked b p).agenda = s.agenda := rfl
@[simp] theorem State.putPacked_rdata : (s.putPacked b p).rdata = s.rdata := rfl
@[simp] theorem State.putPacked_draws : (s.putPacked b p).draws = s.draws := rfl
@[simp] theorem State.putPacked_inGen : (s.putPacked b p).inGen = s.inGen := rfl
@[simp] theorem State.putPacked_irqEn : (s.putPacked b p).irqEn = s.irqEn := rfl
@[simp] theorem State.putPacked_engine : (s.putPacked b p).engine = s.engine := rfl
@[simp] theorem State.putPacked_done : (s.putPacked b p).done = s.done := rfl
@[simp] theorem State.putPacked_err : (s.putPacked b p).err = s.err := rfl
@[simp] theorem State.putPacked_error : (s.putPacked b p).error = s.error := rfl
@[simp] theorem State.putPacked_inLen : (s.putPacked b p).inLen = s.inLen := rfl
@[simp] theorem State.putPacked_outLen : (s.putPacked b p).outLen = s.outLen := rfl
@[simp] theorem State.putPacked_tokLen : (s.putPacked b p).tokLen = s.tokLen := rfl
@[simp] theorem State.putPacked_pkLen : (s.putPacked b p).pkLen = BitVec.ofNat 32 b.length := rfl
@[simp] theorem State.putPacked_padLen : (s.putPacked b p).padLen = BitVec.ofNat 3 p := rfl
@[simp] theorem State.putPacked_valid : (s.putPacked b p).valid = { s.valid with pk := true } := rfl
@[simp] theorem State.putPacked_nodeCount : (s.putPacked b p).nodeCount = s.nodeCount := rfl
@[simp] theorem State.putPacked_progress : (s.putPacked b p).progress = s.progress := rfl
@[simp] theorem State.putPacked_inMem : (s.putPacked b p).inMem = s.inMem := rfl
@[simp] theorem State.putPacked_outMem : (s.putPacked b p).outMem = s.outMem := rfl
@[simp] theorem State.putPacked_tokMem : (s.putPacked b p).tokMem = s.tokMem := rfl
@[simp] theorem State.putPacked_pkMem : (s.putPacked b p).pkMem = Sparse.ofList b := rfl
@[simp] theorem State.putPacked_arena : (s.putPacked b p).arena = s.arena := rfl
@[simp] theorem State.putPacked_root : (s.putPacked b p).root = s.root := rfl
@[simp] theorem State.putPacked_codes : (s.putPacked b p).codes = s.codes := rfl

/-! ### putOut -/

@[simp] theorem State.putOut_params : (s.putOut b).params = s.params := rfl
@[simp] theorem State.putOut_agenda : (s.putOut b).agenda = s.agenda := rfl
@[simp] theorem State.putOut_rdata : (s.putOut b).rdata = s.rdata := rfl
@[simp] theorem State.putOut_draws : (s.putOut b).draws = s.draws := rfl
@[simp] theorem State.putOut_inGen : (s.putOut b).inGen = s.inGen := rfl
@[simp] theorem State.putOut_irqEn : (s.putOut b).irqEn = s.irqEn := rfl
@[simp] theorem State.putOut_engine : (s.putOut b).engine = s.engine := rfl
@[simp] theorem State.putOut_done : (s.putOut b).done = s.done := rfl
@[simp] theorem State.putOut_err : (s.putOut b).err = s.err := rfl
@[simp] theorem State.putOut_error : (s.putOut b).error = s.error := rfl
@[simp] theorem State.putOut_inLen : (s.putOut b).inLen = s.inLen := rfl
@[simp] theorem State.putOut_outLen : (s.putOut b).outLen = BitVec.ofNat 32 b.length := rfl
@[simp] theorem State.putOut_tokLen : (s.putOut b).tokLen = s.tokLen := rfl
@[simp] theorem State.putOut_pkLen : (s.putOut b).pkLen = s.pkLen := rfl
@[simp] theorem State.putOut_padLen : (s.putOut b).padLen = s.padLen := rfl
@[simp] theorem State.putOut_valid : (s.putOut b).valid = s.valid := rfl
@[simp] theorem State.putOut_nodeCount : (s.putOut b).nodeCount = s.nodeCount := rfl
@[simp] theorem State.putOut_progress : (s.putOut b).progress = s.progress := rfl
@[simp] theorem State.putOut_inMem : (s.putOut b).inMem = s.inMem := rfl
@[simp] theorem State.putOut_outMem : (s.putOut b).outMem = Sparse.ofList b := rfl
@[simp] theorem State.putOut_tokMem : (s.putOut b).tokMem = s.tokMem := rfl
@[simp] theorem State.putOut_pkMem : (s.putOut b).pkMem = s.pkMem := rfl
@[simp] theorem State.putOut_arena : (s.putOut b).arena = s.arena := rfl
@[simp] theorem State.putOut_root : (s.putOut b).root = s.root := rfl
@[simp] theorem State.putOut_codes : (s.putOut b).codes = s.codes := rfl

/-! ### accept -/

@[simp] theorem State.accept_params : (s.accept i).params = s.params := rfl
@[simp] theorem State.accept_agenda : (s.accept i).agenda = s.agenda := rfl
@[simp] theorem State.accept_rdata : (s.accept i).rdata = s.rdata := rfl
@[simp] theorem State.accept_draws : (s.accept i).draws = s.draws := rfl
@[simp] theorem State.accept_inGen : (s.accept i).inGen = s.inGen := rfl
@[simp] theorem State.accept_irqEn : (s.accept i).irqEn = s.irqEn := rfl
@[simp] theorem State.accept_engine : (s.accept i).engine = .running i := rfl
@[simp] theorem State.accept_done : (s.accept i).done = false := rfl
@[simp] theorem State.accept_err : (s.accept i).err = false := rfl
@[simp] theorem State.accept_error : (s.accept i).error = ErrorReg.none := rfl
@[simp] theorem State.accept_inLen : (s.accept i).inLen = s.inLen := rfl
@[simp] theorem State.accept_outLen : (s.accept i).outLen = s.outLen := rfl
@[simp] theorem State.accept_tokLen : (s.accept i).tokLen = s.tokLen := rfl
@[simp] theorem State.accept_pkLen : (s.accept i).pkLen = s.pkLen := rfl
@[simp] theorem State.accept_padLen : (s.accept i).padLen = s.padLen := rfl
@[simp] theorem State.accept_valid : (s.accept i).valid = s.valid := rfl
@[simp] theorem State.accept_nodeCount : (s.accept i).nodeCount = s.nodeCount := rfl
@[simp] theorem State.accept_progress : (s.accept i).progress = 0#7 := rfl
@[simp] theorem State.accept_inMem : (s.accept i).inMem = s.inMem := rfl
@[simp] theorem State.accept_outMem : (s.accept i).outMem = s.outMem := rfl
@[simp] theorem State.accept_tokMem : (s.accept i).tokMem = s.tokMem := rfl
@[simp] theorem State.accept_pkMem : (s.accept i).pkMem = s.pkMem := rfl
@[simp] theorem State.accept_arena : (s.accept i).arena = s.arena := rfl
@[simp] theorem State.accept_root : (s.accept i).root = s.root := rfl
@[simp] theorem State.accept_codes : (s.accept i).codes = s.codes := rfl

/-! ### badCommand -/

@[simp] theorem State.badCommand_params : (s.badCommand op).params = s.params := rfl
@[simp] theorem State.badCommand_agenda : (s.badCommand op).agenda = s.agenda := rfl
@[simp] theorem State.badCommand_rdata : (s.badCommand op).rdata = s.rdata := rfl
@[simp] theorem State.badCommand_draws : (s.badCommand op).draws = s.draws := rfl
@[simp] theorem State.badCommand_inGen : (s.badCommand op).inGen = s.inGen := rfl
@[simp] theorem State.badCommand_irqEn : (s.badCommand op).irqEn = s.irqEn := rfl
@[simp] theorem State.badCommand_engine : (s.badCommand op).engine = s.engine := rfl
@[simp] theorem State.badCommand_done : (s.badCommand op).done = true := rfl
@[simp] theorem State.badCommand_err : (s.badCommand op).err = true := rfl
@[simp] theorem State.badCommand_error : (s.badCommand op).error = ⟨badCommandCode, 0#8, op⟩ := rfl
@[simp] theorem State.badCommand_inLen : (s.badCommand op).inLen = s.inLen := rfl
@[simp] theorem State.badCommand_outLen : (s.badCommand op).outLen = s.outLen := rfl
@[simp] theorem State.badCommand_tokLen : (s.badCommand op).tokLen = s.tokLen := rfl
@[simp] theorem State.badCommand_pkLen : (s.badCommand op).pkLen = s.pkLen := rfl
@[simp] theorem State.badCommand_padLen : (s.badCommand op).padLen = s.padLen := rfl
@[simp] theorem State.badCommand_valid : (s.badCommand op).valid = s.valid := rfl
@[simp] theorem State.badCommand_nodeCount : (s.badCommand op).nodeCount = s.nodeCount := rfl
@[simp] theorem State.badCommand_progress : (s.badCommand op).progress = s.progress := rfl
@[simp] theorem State.badCommand_inMem : (s.badCommand op).inMem = s.inMem := rfl
@[simp] theorem State.badCommand_outMem : (s.badCommand op).outMem = s.outMem := rfl
@[simp] theorem State.badCommand_tokMem : (s.badCommand op).tokMem = s.tokMem := rfl
@[simp] theorem State.badCommand_pkMem : (s.badCommand op).pkMem = s.pkMem := rfl
@[simp] theorem State.badCommand_arena : (s.badCommand op).arena = s.arena := rfl
@[simp] theorem State.badCommand_root : (s.badCommand op).root = s.root := rfl
@[simp] theorem State.badCommand_codes : (s.badCommand op).codes = s.codes := rfl

/-! ### errorCompletion -/

@[simp] theorem State.errorCompletion_params : (s.errorCompletion e).params = s.params := rfl
@[simp] theorem State.errorCompletion_agenda : (s.errorCompletion e).agenda = s.agenda := rfl
@[simp] theorem State.errorCompletion_rdata : (s.errorCompletion e).rdata = s.rdata := rfl
@[simp] theorem State.errorCompletion_draws : (s.errorCompletion e).draws = s.draws + 1 := rfl
@[simp] theorem State.errorCompletion_inGen : (s.errorCompletion e).inGen = s.inGen := rfl
@[simp] theorem State.errorCompletion_irqEn : (s.errorCompletion e).irqEn = s.irqEn := rfl
@[simp] theorem State.errorCompletion_engine : (s.errorCompletion e).engine = .idle := rfl
@[simp] theorem State.errorCompletion_done : (s.errorCompletion e).done = true := rfl
@[simp] theorem State.errorCompletion_err : (s.errorCompletion e).err = true := rfl
@[simp] theorem State.errorCompletion_error : (s.errorCompletion e).error = e.reg := rfl
@[simp] theorem State.errorCompletion_inLen : (s.errorCompletion e).inLen = s.inLen := rfl
@[simp] theorem State.errorCompletion_outLen : (s.errorCompletion e).outLen = 0#32 := rfl
@[simp] theorem State.errorCompletion_tokLen : (s.errorCompletion e).tokLen = 0#32 := rfl
@[simp] theorem State.errorCompletion_pkLen : (s.errorCompletion e).pkLen = 0#32 := rfl
@[simp] theorem State.errorCompletion_padLen : (s.errorCompletion e).padLen = 0#3 := rfl
@[simp] theorem State.errorCompletion_valid : (s.errorCompletion e).valid = ⟨false, false, false, false⟩ := rfl
@[simp] theorem State.errorCompletion_nodeCount : (s.errorCompletion e).nodeCount = 0#17 := rfl
@[simp] theorem State.errorCompletion_progress : (s.errorCompletion e).progress = 0#7 := rfl
@[simp] theorem State.errorCompletion_inMem : (s.errorCompletion e).inMem = s.inMem := rfl
@[simp] theorem State.errorCompletion_outMem : (s.errorCompletion e).outMem = [] := rfl
@[simp] theorem State.errorCompletion_tokMem : (s.errorCompletion e).tokMem = [] := rfl
@[simp] theorem State.errorCompletion_pkMem : (s.errorCompletion e).pkMem = [] := rfl
@[simp] theorem State.errorCompletion_arena : (s.errorCompletion e).arena = [] := rfl
@[simp] theorem State.errorCompletion_root : (s.errorCompletion e).root = Config.freeRoot s.draws := rfl
@[simp] theorem State.errorCompletion_codes : (s.errorCompletion e).codes = [] := rfl

/-! ### okCompletion -/

@[simp] theorem State.okCompletion_params : s.okCompletion.params = s.params := rfl
@[simp] theorem State.okCompletion_agenda : s.okCompletion.agenda = s.agenda := rfl
@[simp] theorem State.okCompletion_rdata : s.okCompletion.rdata = s.rdata := rfl
@[simp] theorem State.okCompletion_draws : s.okCompletion.draws = s.draws + 1 := rfl
@[simp] theorem State.okCompletion_inGen : s.okCompletion.inGen = s.inGen := rfl
@[simp] theorem State.okCompletion_irqEn : s.okCompletion.irqEn = s.irqEn := rfl
@[simp] theorem State.okCompletion_engine : s.okCompletion.engine = .idle := rfl
@[simp] theorem State.okCompletion_done : s.okCompletion.done = true := rfl
@[simp] theorem State.okCompletion_err : s.okCompletion.err = false := rfl
@[simp] theorem State.okCompletion_error : s.okCompletion.error = ErrorReg.none := rfl
@[simp] theorem State.okCompletion_inLen : s.okCompletion.inLen = s.inLen := rfl
@[simp] theorem State.okCompletion_outLen : s.okCompletion.outLen = s.outLen := rfl
@[simp] theorem State.okCompletion_tokLen : s.okCompletion.tokLen = s.tokLen := rfl
@[simp] theorem State.okCompletion_pkLen : s.okCompletion.pkLen = s.pkLen := rfl
@[simp] theorem State.okCompletion_padLen : s.okCompletion.padLen = s.padLen := rfl
@[simp] theorem State.okCompletion_valid : s.okCompletion.valid = s.valid := rfl
@[simp] theorem State.okCompletion_nodeCount : s.okCompletion.nodeCount = s.nodeCount := rfl
@[simp] theorem State.okCompletion_progress : s.okCompletion.progress = 100#7 := rfl
@[simp] theorem State.okCompletion_inMem : s.okCompletion.inMem = s.inMem := rfl
@[simp] theorem State.okCompletion_outMem : s.okCompletion.outMem = s.outMem := rfl
@[simp] theorem State.okCompletion_tokMem : s.okCompletion.tokMem = s.tokMem := rfl
@[simp] theorem State.okCompletion_pkMem : s.okCompletion.pkMem = s.pkMem := rfl
@[simp] theorem State.okCompletion_arena : s.okCompletion.arena = s.arena := rfl
@[simp] theorem State.okCompletion_root : s.okCompletion.root = s.root := rfl
@[simp] theorem State.okCompletion_codes : s.okCompletion.codes = s.codes := rfl

/-! ### ack -/

@[simp] theorem State.ack_params : s.ack.params = s.params := rfl
@[simp] theorem State.ack_agenda : s.ack.agenda = s.agenda := rfl
@[simp] theorem State.ack_rdata : s.ack.rdata = s.rdata := rfl
@[simp] theorem State.ack_draws : s.ack.draws = s.draws := rfl
@[simp] theorem State.ack_inGen : s.ack.inGen = s.inGen := rfl
@[simp] theorem State.ack_irqEn : s.ack.irqEn = s.irqEn := rfl
@[simp] theorem State.ack_engine : s.ack.engine = s.engine := rfl
@[simp] theorem State.ack_done : s.ack.done = false := rfl
@[simp] theorem State.ack_err : s.ack.err = s.err := rfl
@[simp] theorem State.ack_error : s.ack.error = s.error := rfl
@[simp] theorem State.ack_inLen : s.ack.inLen = s.inLen := rfl
@[simp] theorem State.ack_outLen : s.ack.outLen = s.outLen := rfl
@[simp] theorem State.ack_tokLen : s.ack.tokLen = s.tokLen := rfl
@[simp] theorem State.ack_pkLen : s.ack.pkLen = s.pkLen := rfl
@[simp] theorem State.ack_padLen : s.ack.padLen = s.padLen := rfl
@[simp] theorem State.ack_valid : s.ack.valid = s.valid := rfl
@[simp] theorem State.ack_nodeCount : s.ack.nodeCount = s.nodeCount := rfl
@[simp] theorem State.ack_progress : s.ack.progress = s.progress := rfl
@[simp] theorem State.ack_inMem : s.ack.inMem = s.inMem := rfl
@[simp] theorem State.ack_outMem : s.ack.outMem = s.outMem := rfl
@[simp] theorem State.ack_tokMem : s.ack.tokMem = s.tokMem := rfl
@[simp] theorem State.ack_pkMem : s.ack.pkMem = s.pkMem := rfl
@[simp] theorem State.ack_arena : s.ack.arena = s.arena := rfl
@[simp] theorem State.ack_root : s.ack.root = s.root := rfl
@[simp] theorem State.ack_codes : s.ack.codes = s.codes := rfl

/-! ### resetCore -/

@[simp] theorem State.resetCore_params : s.resetCore.params = s.params := rfl
@[simp] theorem State.resetCore_agenda : s.resetCore.agenda = s.agenda := rfl
@[simp] theorem State.resetCore_rdata : s.resetCore.rdata = s.rdata := rfl
@[simp] theorem State.resetCore_draws : s.resetCore.draws = s.draws + 1 := rfl
@[simp] theorem State.resetCore_inGen : s.resetCore.inGen = s.draws := rfl
@[simp] theorem State.resetCore_irqEn : s.resetCore.irqEn = false := rfl
@[simp] theorem State.resetCore_engine : s.resetCore.engine = .idle := rfl
@[simp] theorem State.resetCore_done : s.resetCore.done = false := rfl
@[simp] theorem State.resetCore_err : s.resetCore.err = false := rfl
@[simp] theorem State.resetCore_error : s.resetCore.error = ErrorReg.none := rfl
@[simp] theorem State.resetCore_inLen : s.resetCore.inLen = 0#32 := rfl
@[simp] theorem State.resetCore_outLen : s.resetCore.outLen = 0#32 := rfl
@[simp] theorem State.resetCore_tokLen : s.resetCore.tokLen = 0#32 := rfl
@[simp] theorem State.resetCore_pkLen : s.resetCore.pkLen = 0#32 := rfl
@[simp] theorem State.resetCore_padLen : s.resetCore.padLen = 0#3 := rfl
@[simp] theorem State.resetCore_valid : s.resetCore.valid = ⟨false, false, false, false⟩ := rfl
@[simp] theorem State.resetCore_nodeCount : s.resetCore.nodeCount = 0#17 := rfl
@[simp] theorem State.resetCore_progress : s.resetCore.progress = 0#7 := rfl
@[simp] theorem State.resetCore_inMem : s.resetCore.inMem = [] := rfl
@[simp] theorem State.resetCore_outMem : s.resetCore.outMem = [] := rfl
@[simp] theorem State.resetCore_tokMem : s.resetCore.tokMem = [] := rfl
@[simp] theorem State.resetCore_pkMem : s.resetCore.pkMem = [] := rfl
@[simp] theorem State.resetCore_arena : s.resetCore.arena = [] := rfl
@[simp] theorem State.resetCore_root : s.resetCore.root = Config.freeRoot s.draws := rfl
@[simp] theorem State.resetCore_codes : s.resetCore.codes = [] := rfl

end Sys2Proof.Machine
end

