-- ==== Sys2Proof/Laws/Bus.lean ====
section
/-! SUPPORT. The bus: what an access can do, and the frame of a write to the IN window. -/

namespace Sys2Proof.Machine

/-- Everything a read can do. -/
theorem busRead_next {s t : State} {addr : Word} {size : Nat} (h : busRead s addr size = .next t) :
    admitted addr size = true ∧ t = { s with rdata := readValue s addr size, draws := s.draws + 1 } := by
  unfold busRead at h
  split at h
  · injection h with h; exact ⟨‹_›, h.symm⟩
  · cases h

/-- Everything a write can do: a register write, or bytes stored through the windows. -/
theorem busWrite_next {s t : State} {addr v : Word} {size : Nat} (h : busWrite s addr size v = .next t) :
    admitted addr size = true ∧
    ((∃ off, regionOf addr.toNat = .regPage off ∧ t = regWrite s off v) ∨
     ((∀ off, regionOf addr.toNat ≠ .regPage off) ∧ t = bytesWrite s addr.toNat v size)) := by
  unfold busWrite at h
  split at h
  · refine ⟨‹_›, ?_⟩
    split at h
    · injection h with h; exact .inl ⟨_, ‹_›, h.symm⟩
    · injection h with h; exact .inr ⟨‹_›, h.symm⟩
  · cases h

/-- Everything a register write can do: the four registers that take one, or nothing. -/
theorem regWrite_cases (s : State) (off : Nat) (v : Word) :
    (off = 0x004 ∧ regWrite s off v = writeCtrl s v) ∨ (off = 0x008 ∧ regWrite s off v = writeCmd s v) ∨
    (off = 0x00C ∧ regWrite s off v = writeStatus s v) ∨ (off = 0x014 ∧ regWrite s off v = writeInLen s v) ∨
    (off ≠ 0x004 ∧ off ≠ 0x008 ∧ off ≠ 0x00C ∧ off ≠ 0x014 ∧ regWrite s off v = s) := by
  unfold regWrite
  split
  · exact .inl ⟨‹_›, rfl⟩
  · split
    · exact .inr (.inl ⟨‹_›, rfl⟩)
    · split
      · exact .inr (.inr (.inl ⟨‹_›, rfl⟩))
      · split
        · exact .inr (.inr (.inr (.inl ⟨‹_›, rfl⟩)))
        · exact .inr (.inr (.inr (.inr ⟨‹_›, ‹_›, ‹_›, ‹_›, rfl⟩)))

/-- Everything a CMD write can do. -/
theorem writeCmd_cases (s : State) (v : Word) :
    (s.busy = true ∧ writeCmd s v = s) ∨
    (∃ op, s.busy = false ∧ decode v = .illegal op ∧ writeCmd s v = s.badCommand op) ∨
    (∃ i, s.busy = false ∧ decode v = .cmd i ∧ writeCmd s v = s.accept i) := by
  unfold writeCmd
  cases hb : s.busy with
  | true => exact .inl ⟨rfl, rfl⟩
  | false =>
    cases hd : decode v with
    | cmd i => exact .inr (.inr ⟨i, rfl, rfl, rfl⟩)
    | illegal op => exact .inr (.inl ⟨op, rfl, rfl, rfl⟩)

/-- A byte stored to the IN window changes IN_MEM alone. -/
theorem inWrite_eq (s : State) (off : Nat) (b : Byte) :
    inWrite s off b = { s with inMem := (inWrite s off b).inMem } := by
  unfold inWrite
  split
  · rfl
  · split <;> rfl

theorem byteWrite_eq (s : State) (a : Nat) (b : Byte) :
    byteWrite s a b = { s with inMem := (byteWrite s a b).inMem } := by
  unfold byteWrite
  split
  · exact inWrite_eq _ _ _
  · rfl

/-- Bytes stored through the windows change IN_MEM alone. -/
theorem bytesWrite_eq (s : State) (a : Nat) (v : Word) (n : Nat) :
    bytesWrite s a v n = { s with inMem := (bytesWrite s a v n).inMem } := by
  induction n with
  | zero => rfl
  | succ n ih =>
    rw [bytesWrite, byteWrite_eq, ih]

/-- What a byte stored to the IN window reads as afterwards, and that it leaves every other byte. -/
theorem inByte_inWrite (s : State) (off : Nat) (b : Byte) (i : Nat) :
    (inWrite s off b).inByte i =
      if s.busy = false ∧ off < s.params.inCap ∧ off = i then b else s.inByte i := by
  unfold inWrite
  cases hb : s.busy with
  | true => simp
  | false =>
    by_cases hc : s.params.inCap ≤ off
    · have : ¬off < s.params.inCap := by omega
      simp [hc, this]
    · have : off < s.params.inCap := by omega
      simp only [Bool.false_eq_true, if_false, hc, this, true_and, State.inByte, Sparse.read_write]
      split <;> simp_all

/-- The address map inside each window and outside them. -/
theorem regionOf_inWin {a : Nat} (h : 0x10000000 ≤ a) (h' : a < 0x20000000) :
    regionOf a = .inWin (a - 0x10000000) := by
  rw [regionOf, if_neg (by omega), if_neg (by omega), if_pos h']

theorem regionOf_outWin {a : Nat} (h : 0x20000000 ≤ a) (h' : a < 0x30000000) :
    regionOf a = .outWin (a - 0x20000000) := by
  rw [regionOf, if_neg (by omega), if_neg (by omega), if_neg (by omega), if_pos h']

theorem regionOf_tokWin {a : Nat} (h : 0x30000000 ≤ a) (h' : a < 0x40000000) :
    regionOf a = .tokWin (a - 0x30000000) := by
  rw [regionOf, if_neg (by omega), if_neg (by omega), if_neg (by omega), if_neg (by omega), if_pos h']

theorem regionOf_pkWin {a : Nat} (h : 0x40000000 ≤ a) (h' : a < 0x50000000) :
    regionOf a = .pkWin (a - 0x40000000) := by
  rw [regionOf, if_neg (by omega), if_neg (by omega), if_neg (by omega), if_neg (by omega), if_neg (by omega),
    if_pos h']

theorem regionOf_regPage {a : Nat} (h : a < 0x1000) : regionOf a = .regPage a := if_pos h

end Sys2Proof.Machine
end

