-- ==== Sys2Proof/Laws/Codec.lean ====
section
/-! SUPPORT. The codec's operations: for each, one lemma that says everything a success of it did, and what its failures
can be. -/

namespace Sys2Proof.Machine

/-! ### LZW -/

@[simp] theorem dictSeed_length : dictSeed.length = 256 := by simp [dictSeed]

theorem mem_dictSeed (c : Byte) : [c] ∈ dictSeed := by
  simp only [dictSeed, List.mem_map, List.mem_range]
  exact ⟨c.toNat, c.isLt, by simp⟩

theorem dictSeed_getElem? (k : Nat) (h : k < 256) : dictSeed[k]? = some [BitVec.ofNat 8 k] := by
  simp [dictSeed, h]

theorem dictInsertOrReset_of_lt {ceiling : Nat} {dict : List (List Byte)} (wc : List Byte)
    (h : dict.length < ceiling) : dictInsertOrReset ceiling dict wc = dict ++ [wc] := if_pos h

theorem dictInsertOrReset_of_le {ceiling : Nat} {dict : List (List Byte)} (wc : List Byte)
    (h : ceiling ≤ dict.length) : dictInsertOrReset ceiling dict wc = dictSeed := if_neg (by omega)

/-- Everything a successful emission did. -/
theorem codeEmit_ok {tokCap : Nat} {e e' : EncState} (h : codeEmit tokCap e = .ok e') :
    (e.w = [] ∧ e' = e) ∨
    (e.w ≠ [] ∧ e.out.length ≠ tokCap ∧ e' = { e with out := e.out ++ [dictCode e.dict e.w] }) := by
  unfold codeEmit at h
  split at h
  · cases h; exact .inl ⟨‹_›, rfl⟩
  · split at h
    · cases h
    · cases h; exact .inr ⟨‹_›, ‹_›, rfl⟩

theorem codeEmit_error {tokCap : Nat} {e : EncState} {x : Cause} (h : codeEmit tokCap e = .error x) :
    x = .capacity .tok ∧ e.w ≠ [] ∧ e.out.length = tokCap := by
  unfold codeEmit at h
  split at h
  · cases h
  · split at h
    · cases h; exact ⟨rfl, ‹_›, ‹_›⟩
    · cases h

/-- Everything one input byte did: a HIT, or a MISS with its emission. -/
theorem encodeByte_ok {ceiling tokCap : Nat} {e e' : EncState} {c : Byte} (h : encodeByte ceiling tokCap e c = .ok e') :
    (e.w ++ [c] ∈ e.dict ∧ e' = { e with w := e.w ++ [c] }) ∨
    (e.w ++ [c] ∉ e.dict ∧ ∃ f, codeEmit tokCap e = .ok f ∧
      e' = ⟨dictInsertOrReset ceiling f.dict (e.w ++ [c]), [c], f.out⟩) := by
  unfold encodeByte at h
  simp only at h
  split at h
  · cases h; exact .inl ⟨‹_›, rfl⟩
  · split at h
    · cases h
    · cases h; exact .inr ⟨‹_›, _, ‹_›, rfl⟩

theorem encodeByte_error {ceiling tokCap : Nat} {e : EncState} {c : Byte} {x : Cause}
    (h : encodeByte ceiling tokCap e c = .error x) : e.w ++ [c] ∉ e.dict ∧ codeEmit tokCap e = .error x := by
  unfold encodeByte at h
  simp only at h
  split at h
  · cases h
  · split at h
    · cases h; exact ⟨‹_›, ‹_›⟩
    · cases h

@[simp] theorem encodeBytes_nil (ceiling tokCap : Nat) (e : EncState) : encodeBytes ceiling tokCap e [] = .ok e := rfl

theorem encodeBytes_cons_ok {ceiling tokCap : Nat} {e e' : EncState} {c : Byte} {cs : List Byte}
    (h : encodeBytes ceiling tokCap e (c :: cs) = .ok e') :
    ∃ f, encodeByte ceiling tokCap e c = .ok f ∧ encodeBytes ceiling tokCap f cs = .ok e' := by
  simp only [encodeBytes] at h
  split at h
  · cases h
  · exact ⟨_, ‹_›, h⟩

/-- Encoding a longer input is encoding its first part and going on. -/
theorem encodeBytes_append (ceiling tokCap : Nat) (e : EncState) (b b' : List Byte) :
    encodeBytes ceiling tokCap e (b ++ b') =
      (match encodeBytes ceiling tokCap e b with
        | .error x => .error x
        | .ok f => encodeBytes ceiling tokCap f b') := by
  induction b generalizing e with
  | nil => rfl
  | cons c b ih =>
    simp only [List.cons_append, encodeBytes]
    cases encodeByte ceiling tokCap e c with
    | error x => rfl
    | ok f => exact ih f

/-- Everything a successful classification did. -/
theorem classify_ok {dict : List (List Byte)} {w entry : List Byte} {k : Nat} (h : classify dict w k = .ok entry) :
    dict[k]? = some entry ∨ (k = dict.length ∧ entry = w ++ w.take 1) := by
  unfold classify at h
  split at h
  · cases h; exact .inl ‹_›
  · split at h
    · cases h; exact .inr ⟨‹_›, rfl⟩
    · cases h

theorem classify_error {dict : List (List Byte)} {w : List Byte} {k : Nat} {x : Cause}
    (h : classify dict w k = .error x) : x = .corrupt .badCode ∧ dict.length < k := by
  unfold classify at h
  split at h
  · cases h
  · split at h
    · cases h
    · cases h
      have : dict.length ≤ k := by simpa using ‹dict[k]? = none›
      exact ⟨rfl, by omega⟩

/-- Everything one token of the decoder did. -/
theorem decodeToken_ok {ceiling outCap : Nat} {d d' : DecState} {k : Nat} (h : decodeToken ceiling outCap d k = .ok d') :
    ∃ entry, classify d.dict d.w k = .ok entry ∧ d.out.length + entry.length ≤ outCap ∧
      d' = ⟨dictInsertOrReset ceiling d.dict (d.w ++ entry.take 1), entry, d.out ++ entry⟩ := by
  unfold decodeToken at h
  split at h
  · cases h
  · split at h
    · cases h
    · cases h; exact ⟨_, ‹_›, by omega, rfl⟩

@[simp] theorem decodeTokens_nil (ceiling outCap : Nat) (d : DecState) : decodeTokens ceiling outCap d [] = .ok d := rfl

theorem decodeTokens_cons_ok {ceiling outCap : Nat} {d d' : DecState} {k : Nat} {ks : List Nat}
    (h : decodeTokens ceiling outCap d (k :: ks) = .ok d') :
    ∃ f, decodeToken ceiling outCap d k = .ok f ∧ decodeTokens ceiling outCap f ks = .ok d' := by
  simp only [decodeTokens] at h
  split at h
  · cases h
  · exact ⟨_, ‹_›, h⟩

/-- Decoding a longer stream is decoding its first part and going on. -/
theorem decodeTokens_append (ceiling outCap : Nat) (d : DecState) (t t' : List Nat) :
    decodeTokens ceiling outCap d (t ++ t') =
      (match decodeTokens ceiling outCap d t with
        | .error x => .error x
        | .ok f => decodeTokens ceiling outCap f t') := by
  induction t generalizing d with
  | nil => rfl
  | cons k t ih =>
    simp only [List.cons_append, decodeTokens]
    cases decodeToken ceiling outCap d k with
    | error x => rfl
    | ok f => exact ih f

/-- Everything a successful decoding did. -/
theorem lzwDecode_ok {ceiling outCap : Nat} {t : List Nat} {b : List Byte} (h : lzwDecode ceiling outCap t = .ok b) :
    ∃ t0 ts d, t = t0 :: ts ∧ t0 < 256 ∧ 1 ≤ outCap ∧
      decodeTokens ceiling outCap ⟨dictSeed, [BitVec.ofNat 8 t0], [BitVec.ofNat 8 t0]⟩ ts = .ok d ∧ b = d.out := by
  cases t with
  | nil => simp [lzwDecode] at h
  | cons t0 ts =>
    simp only [lzwDecode] at h
    split at h
    · cases h
    · split at h
      · cases h
      · split at h
        · cases h
        · cases h; exact ⟨t0, ts, _, rfl, by omega, by omega, ‹_›, rfl⟩

theorem lzwEncodeBody_ok {s t : State} (h : lzwEncodeBody s = .ok t) :
    s.inLen.toNat ≤ s.params.inCap ∧ ∃ toks, lzwEncode s.params.ceiling s.params.tokCap s.inBytes = .ok toks ∧
      t = s.dropTree.dropCodes.dropPacked.putTokens toks := by
  unfold lzwEncodeBody at h
  split at h
  · cases h
  · split at h
    · cases h
    · cases h; exact ⟨by omega, _, ‹_›, rfl⟩

theorem lzwDecodeBody_ok {s t : State} (h : lzwDecodeBody s = .ok t) :
    ∃ b, lzwDecode s.params.ceiling s.params.outCap s.tokens = .ok b ∧ t = s.putOut b := by
  unfold lzwDecodeBody at h
  split at h
  · cases h
  · cases h; exact ⟨_, ‹_›, rfl⟩

/-! ### Huffman -/

/-- Everything an insertion into the queue did: it kept every entry and added one. -/
theorem pqInsert_perm (x : PqEntry) (q : List PqEntry) : (pqInsert x q).Perm (x :: q) := by
  induction q with
  | nil => exact List.Perm.refl _
  | cons y q ih =>
    simp only [pqInsert]
    split
    · exact List.Perm.refl _
    · exact (ih.cons y).trans (List.Perm.swap x y q)

@[simp] theorem pqInsert_length (x : PqEntry) (q : List PqEntry) : (pqInsert x q).length = q.length + 1 :=
  (pqInsert_perm x q).length_eq

theorem mem_pqInsert {x y : PqEntry} {q : List PqEntry} : y ∈ pqInsert x q ↔ y = x ∨ y ∈ q := by
  rw [(pqInsert_perm x q).mem_iff, List.mem_cons]

/-- One merge: the two least entries become one, and the arena grows by their parent. -/
theorem mergeLoop_succ_cons_cons (ceiling fuel k : Nat) (a b : PqEntry) (rest : List PqEntry) (arena : List Node) :
    mergeLoop ceiling (fuel + 1) k (a :: b :: rest) arena =
      mergeLoop ceiling fuel (k + 1) (pqInsert ⟨a.freq + b.freq, ceiling + k, arena.length⟩ rest)
        (arena ++ [.internal a.handle b.handle (BitVec.ofNat 32 (a.freq + b.freq))]) := rfl

theorem mergeLoop_zero (ceiling k : Nat) (q : List PqEntry) (arena : List Node) :
    mergeLoop ceiling 0 k q arena = (arena, queueRoot q) := rfl

@[simp] theorem mergeLoop_singleton (ceiling fuel k : Nat) (e : PqEntry) (arena : List Node) :
    mergeLoop ceiling fuel k [e] arena = (arena, e.handle) := by cases fuel <;> rfl

theorem hufBuildBody_ok {s t : State} (h : hufBuildBody s = .ok t) :
    s.tokens ≠ [] ∧ t = s.dropCodes.dropPacked.putTree (hufBuild s.params.ceiling s.tokens).arena
      (hufBuild s.params.ceiling s.tokens).root (hufBuild s.params.ceiling s.tokens).count := by
  unfold hufBuildBody at h
  split at h
  · cases h
  · cases h; exact ⟨‹_›, rfl⟩

@[simp] theorem hufCodegenBody_eq (s : State) : hufCodegenBody s = .ok (s.putCodes (codeTable s.tree)) := rfl

/-- The tree a command works on is the arena's, where there is one. -/
theorem State.tree_eq_of_some {s : State} {tr : HufTree} (h : s.tree? = some tr) : s.tree = tr := by
  simp [State.tree, h]

/-! ### Bit packing -/

/-- Everything a successful concatenation of codes did with one token. -/
theorem codeBits_cons_ok {codes : Sparse Bits} {x : Nat} {xs : List Nat} {B : Bits}
    (h : codeBits codes (x :: xs) = .ok B) :
    ∃ c rest, Sparse.read codes x = some c ∧ codeBits codes xs = .ok rest ∧ B = c ++ rest := by
  simp only [codeBits] at h
  split at h
  · cases h
  · split at h
    · cases h
    · cases h; exact ⟨_, _, ‹_›, ‹_›, rfl⟩

theorem codeBits_error {codes : Sparse Bits} {t : List Nat} {x : Cause} (h : codeBits codes t = .error x) :
    x = .noCode := by
  induction t with
  | nil => cases h
  | cons k t ih =>
    simp only [codeBits] at h
    split at h
    · cases h; rfl
    · split at h
      · cases h; exact ih ‹_›
      · cases h

theorem padFor_lt (n : Nat) : padFor n < 8 := Nat.mod_lt _ (by decide)

theorem packTokens_ok {codes : Sparse Bits} {pkCap pad : Nat} {t : List Nat} {pk : List Byte}
    (h : packTokens codes pkCap t = .ok (pk, pad)) :
    ∃ B, codeBits codes t = .ok B ∧ (padBits B).length / 8 ≤ pkCap ∧ pk = bytesOfBits (padBits B) ∧
      pad = padFor B.length := by
  unfold packTokens at h
  split at h
  · cases h
  · split at h
    · cases h
    · cases h; exact ⟨_, ‹_›, by omega, rfl, rfl⟩

@[simp] theorem bitsOfByte_length (b : Byte) : (bitsOfByte b).length = 8 := rfl

@[simp] theorem bitsOfBytes_length (pk : List Byte) : (bitsOfBytes pk).length = 8 * pk.length := by
  induction pk with
  | nil => rfl
  | cons b pk ih =>
    simp only [bitsOfBytes, List.flatMap_cons, List.length_append, bitsOfByte_length, List.length_cons] at ih ⊢
    omega

theorem emitToken_ok {tokCap : Nat} {out out' : List Nat} {sym : Nat} (h : emitToken tokCap out sym = .ok out') :
    out.length ≠ tokCap ∧ out' = out ++ [sym] := by
  unfold emitToken at h
  split at h
  · cases h
  · cases h; exact ⟨‹_›, rfl⟩

/-- Everything a successful unpacking did. -/
theorem unpackTokens_ok {tokCap pad : Nat} {tree : HufTree} {pk : List Byte} {out : List Nat}
    (h : unpackTokens tokCap tree pk pad = .ok out) :
    walkBits tokCap tree tree [] ((bitsOfBytes pk).take ((bitsOfBytes pk).length - pad)) = .ok out ∧
    ((bitsOfBytes pk).drop ((bitsOfBytes pk).length - pad)).any id = false := by
  unfold unpackTokens at h
  simp only at h
  split at h
  · cases h
  · split at h
    · cases h
    · cases h; exact ⟨‹_›, Bool.eq_false_iff.2 ‹_›⟩

theorem packBody_ok {s t : State} (h : packBody s = .ok t) :
    ∃ pk pad, packTokens s.codes s.params.pkCap s.tokens = .ok (pk, pad) ∧ t = s.putPacked pk pad := by
  unfold packBody at h
  split at h
  · cases h
  · cases h; exact ⟨_, _, ‹_›, rfl⟩

theorem unpackBody_ok {s t : State} (h : unpackBody s = .ok t) :
    ∃ toks, unpackTokens s.params.tokCap s.tree s.pkBytes s.padLen.toNat = .ok toks ∧ t = s.putTokens toks := by
  unfold unpackBody at h
  split at h
  · cases h
  · cases h; exact ⟨_, ‹_›, rfl⟩

/-! ### Container -/

theorem takeLe_ok {n v : Nat} {l rest : List Byte} (h : takeLe n l = .ok (v, rest)) :
    n ≤ l.length ∧ v = leValue (l.take n) ∧ rest = l.drop n := by
  unfold takeLe at h
  split at h
  · cases h
  · cases h; exact ⟨by omega, rfl, rfl⟩

theorem takeLe_error {n : Nat} {l : List Byte} {x : Cause} (h : takeLe n l = .error x) :
    x = .corrupt .truncated ∧ l.length < n := by
  unfold takeLe at h
  split at h
  · cases h; exact ⟨rfl, ‹_›⟩
  · cases h

/-- Everything one accepted node did: an internal node opened, or a leaf attached. -/
theorem parseNode_ok {ceiling : Nat} {freq : Nat → BitVec 32} {p q : ParseState}
    (h : parseNode ceiling freq p = .ok q) :
    p.need ≠ 0 ∧ ∃ tag rest, takeLe 1 p.rest = .ok (tag, rest) ∧
    ((tag = 0 ∧ q.rest = rest ∧ q.need = p.need + 1 ∧ q.seen = p.seen ∧
        q.arena = (attach (p.arena ++ [.internal 0 0 (freq p.arena.length)]) p.stack p.arena.length).1 ∧
        q.stack = (p.arena.length, false) ::
          (attach (p.arena ++ [.internal 0 0 (freq p.arena.length)]) p.stack p.arena.length).2) ∨
     (tag = 1 ∧ ∃ sym rest', takeLe 2 rest = .ok (sym, rest') ∧ sym < ceiling ∧ sym ∉ p.seen ∧
        q.rest = rest' ∧ q.need = p.need - 1 ∧ q.seen = sym :: p.seen ∧
        q.arena = (attach (p.arena ++ [.leaf (BitVec.ofNat 16 sym) (freq p.arena.length)]) p.stack p.arena.length).1 ∧
        q.stack = (attach (p.arena ++ [.leaf (BitVec.ofNat 16 sym) (freq p.arena.length)]) p.stack
          p.arena.length).2)) := by
  unfold parseNode at h
  simp only at h
  split at h
  · cases h
  · refine ⟨‹_›, ?_⟩
    split at h
    · cases h
    · refine ⟨_, _, ‹_›, ?_⟩
      split at h
      · cases h; exact .inl ⟨‹_›, rfl, rfl, rfl, rfl, rfl⟩
      · split at h
        · split at h
          · cases h
          · split at h
            · cases h
            · split at h
              · cases h
              · cases h
                exact .inr ⟨‹_›, _, _, ‹_›, by omega, ‹_›, rfl, rfl, rfl, rfl, rfl⟩
        · cases h

theorem parseNodes_succ_ok {ceiling : Nat} {freq : Nat → BitVec 32} {n : Nat} {p q : ParseState}
    (h : parseNodes ceiling freq (n + 1) p = .ok q) :
    ∃ r, parseNode ceiling freq p = .ok r ∧ parseNodes ceiling freq n r = .ok q := by
  simp only [parseNodes] at h
  split at h
  · cases h
  · exact ⟨_, ‹_›, h⟩

theorem parsePayload_ok {pkCap pad : Nat} {l pk : List Byte} (h : parsePayload pkCap pad l = .ok pk) :
    ∃ len, takeLe 8 l = .ok (len, pk) ∧ len = pk.length ∧ (pk = [] → pad = 0) ∧ pk.length ≤ pkCap := by
  unfold parsePayload at h
  split at h
  · cases h
  · rename_i len rest htake
    by_cases h1 : len = rest.length
    · rw [if_neg (by simpa using h1)] at h
      by_cases h2 : 0 < pad ∧ len = 0
      · rw [if_pos h2] at h; cases h
      · rw [if_neg h2] at h
        by_cases h3 : pkCap < len
        · rw [if_pos h3] at h; cases h
        · rw [if_neg h3] at h
          cases h
          refine ⟨len, htake, h1, fun hpk => ?_, by omega⟩
          have : len = 0 := by simp [h1, hpk]
          omega
    · rw [if_pos h1] at h; cases h

/-- Everything a successful parse did. -/
theorem parseArtifact_ok {params : Params} {freq : Nat → BitVec 32} {a : List Byte} {r : Parsed}
    (h : parseArtifact params freq a = .ok r) :
    ∃ rest rest' p, takeLe 4 a = .ok (r.pad, rest) ∧ r.pad ≤ 7 ∧ takeLe 4 rest = .ok (r.count, rest') ∧
      r.count ≠ 0 ∧ r.count ≤ params.nodeCap ∧
      parseNodes params.ceiling freq r.count ⟨rest', 1, [], [], []⟩ = .ok p ∧ p.need = 0 ∧
      parsePayload params.pkCap r.pad p.rest = .ok r.pk ∧ r.arena = p.arena ∧ r.root = 0 := by
  unfold parseArtifact at h
  cases h1 : takeLe 4 a with
  | error e => simp [h1] at h
  | ok v1 =>
    obtain ⟨pad, rest⟩ := v1
    by_cases hp : 7 < pad
    · simp [h1, hp] at h
    · cases h2 : takeLe 4 rest with
      | error e => simp [h1, hp, h2] at h
      | ok v2 =>
        obtain ⟨count, rest'⟩ := v2
        by_cases hc : count = 0 ∨ params.nodeCap < count
        · simp [h1, hp, h2, hc] at h
        · cases h3 : parseNodes params.ceiling freq count ⟨rest', 1, [], [], []⟩ with
          | error e => simp [h1, hp, h2, hc, h3] at h
          | ok p =>
            by_cases hn : p.need = 0
            · cases h4 : parsePayload params.pkCap pad p.rest with
              | error e => simp [h1, hp, h2, hc, h3, hn, h4] at h
              | ok pk =>
                simp only [h1, hp, h2, hc, h3, hn, h4, if_false, ne_eq, not_true_eq_false] at h
                cases h
                exact ⟨rest, rest', p, rfl, by simpa using hp, h2, fun h0 => hc (.inl h0),
                  by simpa using fun hlt => hc (.inr hlt), h3, hn, h4, rfl, rfl⟩
            · simp [h1, hp, h2, hc, h3, hn] at h

theorem serializeArtifact_ok {outCap count pad : Nat} {tree : HufTree} {pk a : List Byte}
    (h : serializeArtifact outCap tree count pk pad = .ok a) :
    a = artifact tree count pk pad ∧ a.length ≤ outCap := by
  unfold serializeArtifact at h
  simp only at h
  split at h
  · cases h
  · cases h; exact ⟨rfl, by omega⟩

theorem serializeBody_ok {s t : State} (h : serializeBody s = .ok t) :
    ∃ a, serializeArtifact s.params.outCap s.tree s.nodeCount.toNat s.pkBytes s.padLen.toNat = .ok a ∧
      t = s.putOut a := by
  unfold serializeBody at h
  split at h
  · cases h
  · cases h; exact ⟨_, ‹_›, rfl⟩

theorem parseBody_ok {s t : State} (h : parseBody s = .ok t) :
    s.inLen.toNat ≤ s.params.inCap ∧ ∃ p, parseArtifact s.params (Config.freeFreq s.draws) s.inBytes = .ok p ∧
      t = (s.dropTokens.dropCodes.putTree p.arena p.root p.count).putPacked p.pk p.pad := by
  unfold parseBody at h
  split at h
  · cases h
  · split at h
    · cases h
    · cases h; exact ⟨by omega, _, ‹_›, rfl⟩

end Sys2Proof.Machine
end

