-- ==== Sys2Proof/Laws/Inv.lean ====
section
/-! SUPPORT. The invariant says nothing of the host's side of the state: it is kept when only the agenda, or what a read
returned, changes. -/

namespace Sys2Proof.Machine

variable {s : State}

theorem State.RegsOk.withHostSide (h : s.RegsOk) (a : List Event) (r : Word) (n : Nat) :
    State.RegsOk { s with agenda := a, rdata := r, draws := n } :=
  ⟨h.params, h.err, h.code, h.noError, h.running, h.progress, h.outLen, h.tokLen, h.pkLen, h.tokFollows, h.treeFollows,
    h.pkFollows, h.codesNeedTree, h.padding⟩

theorem State.MemOk.withHostSide (h : s.MemOk) (a : List Event) (r : Word) (n : Nat) :
    State.MemOk { s with agenda := a, rdata := r, draws := n } :=
  ⟨h.inWf, h.outWf, h.tokWf, h.pkWf, h.arenaWf, h.codesWf, h.inBound, h.outListed, h.tokListed, h.pkListed,
    h.arenaListed, h.codesEmpty⟩

theorem State.RegsOk.withAgenda (h : s.RegsOk) (a : List Event) : State.RegsOk { s with agenda := a } :=
  h.withHostSide a s.rdata s.draws

theorem State.MemOk.withAgenda (h : s.MemOk) (a : List Event) : State.MemOk { s with agenda := a } :=
  h.withHostSide a s.rdata s.draws

theorem State.CodecOk.withAgenda (h : s.CodecOk) (a : List Event) : State.CodecOk { s with agenda := a } :=
  ⟨h.tokens, h.tree⟩

theorem State.Inv.withAgenda (h : s.Inv) (a : List Event) : State.Inv { s with agenda := a } :=
  ⟨h.regs.withAgenda a, h.mems.withAgenda a, h.codec.withAgenda a⟩

end Sys2Proof.Machine
end

