-- ==== Sys2Proof/Laws/Ops.lean ====
section
/-! SUPPORT. The shared operations of the engine: what a stage, a sequence of stages, a completion and the engine's turn
can do. -/

namespace Sys2Proof.Machine

/-- What the command `i` comes to in state `s`, before its completion (44_pipeline.md R802, `run(op, S)`). -/
def run (i : Instr) (s : State) : Except CmdError State :=
  match i with
  | .compress => runCompress s
  | .decompress => runDecompress s
  | .lzwEncode => stageLzwEncode s
  | .lzwDecode => stageLzwDecode s
  | .hufBuild => stageHufBuild s
  | .hufCodegen => stageHufCodegen s
  | .pack => stagePack s
  | .unpack => stageUnpack s
  | .serialize => stageSerialize s
  | .parse => stageParse s

/-- Every command is the completion of its `run`. -/
theorem exec_eq_complete (i : Instr) (s : State) : exec i s = .next (s.complete (run i s)) := by
  cases i <;> rfl

/-- `exec` answers `t` exactly when `t` is the completion of its `run`. -/
theorem exec_next_iff (i : Instr) (s t : State) : exec i s = .next t ↔ t = s.complete (run i s) := by
  rw [exec_eq_complete]
  exact ⟨fun h => by injection h with h; exact h.symm, fun h => by rw [h]⟩

@[simp] theorem State.complete_ok (s t : State) : s.complete (.ok t) = t.okCompletion := rfl

@[simp] theorem State.complete_error (s : State) (e : CmdError) : s.complete (.error e) = s.errorCompletion e := rfl

/-- Everything a completion can be. -/
theorem State.complete_cases (s : State) (r : Except CmdError State) :
    (∃ t, r = .ok t ∧ s.complete r = t.okCompletion) ∨
    (∃ e, r = .error e ∧ s.complete r = s.errorCompletion e) := by
  cases r with
  | ok t => exact .inl ⟨t, rfl, rfl⟩
  | error e => exact .inr ⟨e, rfl, rfl⟩

/-- No required bit is missing exactly when every required bit is set. -/
theorem Valid.missing_isNone_iff (need have_ : Valid) :
    (need.missing have_).isNone = true ↔
      (need.tok = true → have_.tok = true) ∧ (need.tree = true → have_.tree = true) ∧
      (need.codes = true → have_.codes = true) ∧ (need.pk = true → have_.pk = true) := by
  obtain ⟨a, b, c, d⟩ := need
  obtain ⟨a', b', c', d'⟩ := have_
  cases a <;> cases b <;> cases c <;> cases d <;> simp [Valid.missing, Valid.isNone, and_assoc]

/-- A stage whose required bits are set is its body. -/
theorem stage_of_valid {op : Instr} {body : State → Except Cause State} {s : State}
    (h : ((requires op).missing s.valid).isNone = true) :
    stage op body s = (match body s with | .ok t => .ok t | .error c => .error ⟨c, op⟩) := by
  cases hb : body s <;> simp [stage, h, hb]

/-- A stage with a required bit missing raises SEQUENCE_ERROR with the missing bits. -/
theorem stage_of_missing {op : Instr} {body : State → Except Cause State} {s : State}
    (h : ((requires op).missing s.valid).isNone = false) :
    stage op body s = .error ⟨.sequence ((requires op).missing s.valid), op⟩ := by
  simp [stage, h]

/-- Everything a stage that succeeds did. -/
theorem stage_ok {op : Instr} {body : State → Except Cause State} {s t : State} (h : stage op body s = .ok t) :
    ((requires op).missing s.valid).isNone = true ∧ body s = .ok t := by
  cases hm : ((requires op).missing s.valid).isNone with
  | false => rw [stage_of_missing hm] at h; cases h
  | true =>
    rw [stage_of_valid hm] at h
    cases hb : body s with
    | ok u => rw [hb] at h; cases h; exact ⟨rfl, rfl⟩
    | error c => rw [hb] at h; cases h

/-- Everything a stage that fails did. -/
theorem stage_error {op : Instr} {body : State → Except Cause State} {s : State} {e : CmdError}
    (h : stage op body s = .error e) :
    e.stage = op ∧
    ((((requires op).missing s.valid).isNone = false ∧ e.cause = .sequence ((requires op).missing s.valid)) ∨
     (((requires op).missing s.valid).isNone = true ∧ body s = .error e.cause)) := by
  cases hm : ((requires op).missing s.valid).isNone with
  | false => rw [stage_of_missing hm] at h; cases h; exact ⟨rfl, .inl ⟨rfl, rfl⟩⟩
  | true =>
    rw [stage_of_valid hm] at h
    cases hb : body s with
    | ok u => rw [hb] at h; cases h
    | error c => rw [hb] at h; cases h; exact ⟨rfl, .inr ⟨rfl, rfl⟩⟩

@[simp] theorem runStages_nil (s : State) : runStages [] s = .ok s := rfl

theorem runStages_cons_ok {f : State → Except CmdError State} {s t : State} (fs : List (State → Except CmdError State))
    (h : f s = .ok t) : runStages (f :: fs) s = runStages fs t := by
  simp [runStages, h]

theorem runStages_cons_error {f : State → Except CmdError State} {s : State} {e : CmdError}
    (fs : List (State → Except CmdError State)) (h : f s = .error e) : runStages (f :: fs) s = .error e := by
  simp [runStages, h]

/-- A sequence of stages that succeeds went through an intermediate state. -/
theorem runStages_ok {f : State → Except CmdError State} {fs : List (State → Except CmdError State)} {s u : State}
    (h : runStages (f :: fs) s = .ok u) : ∃ t, f s = .ok t ∧ runStages fs t = .ok u := by
  simp only [runStages] at h
  split at h
  · cases h
  · exact ⟨_, ‹_›, h⟩

/-- A sequence of stages that fails did so in its first stage or after it. -/
theorem runStages_error {f : State → Except CmdError State} {fs : List (State → Except CmdError State)} {s : State}
    {e : CmdError} (h : runStages (f :: fs) s = .error e) :
    f s = .error e ∨ ∃ t, f s = .ok t ∧ runStages fs t = .error e := by
  simp only [runStages] at h
  split at h
  · cases h; exact .inl ‹_›
  · exact .inr ⟨_, ‹_›, h⟩

/-- COMPRESS past its own checks. -/
theorem runCompress_of_fits {s : State} (h0 : s.inLen ≠ 0#32) (h : s.inLen.toNat ≤ s.params.inCap) :
    runCompress s = runStages [stageLzwEncode, stageHufBuild, stageHufCodegen, stagePack, stageSerialize] s := by
  rw [runCompress, if_neg h0, if_neg (by omega)]

/-- DECOMPRESS past its own check. -/
theorem runDecompress_of_fits {s : State} (h : s.inLen.toNat ≤ s.params.inCap) :
    runDecompress s = runStages [stageParse, stageUnpack, stageLzwDecode] s := by
  rw [runDecompress, if_neg (by omega)]

/-- Everything the engine's turn can do. -/
theorem engineTurn_cases (s : State) :
    (s.engine = .idle ∧ engineTurn s = .next s) ∨
    (∃ i, s.engine = .running i ∧ engineTurn s = .next (s.complete (run i s))) := by
  unfold engineTurn
  cases h : s.engine with
  | idle => exact .inl ⟨rfl, rfl⟩
  | running i => exact .inr ⟨i, rfl, exec_eq_complete i s⟩

/-- Everything a step can do. -/
theorem step_cases {s t : State} (h : step s = .next t) :
    (∃ u : State, (s.agenda = [] ∧ u = s ∨ ∃ rest, s.agenda = .engine :: rest ∧ u = { s with agenda := rest }) ∧
      ((u.engine = .idle ∧ t = u) ∨ ∃ i, u.engine = .running i ∧ t = u.complete (run i u))) ∨
    (∃ a rest, s.agenda = .host a :: rest ∧ busAccess { s with agenda := rest } a = .next t) ∨
    (∃ rest, s.agenda = .hwReset :: rest ∧ t = State.resetCore { s with agenda := rest }) := by
  unfold step at h
  split at h
  · refine .inl ⟨s, .inl ⟨‹_›, rfl⟩, ?_⟩
    rcases engineTurn_cases s with ⟨hi, he⟩ | ⟨i, hi, he⟩
    · rw [he] at h; injection h with h; exact .inl ⟨hi, h.symm⟩
    · rw [he] at h; injection h with h; exact .inr ⟨i, hi, h.symm⟩
  · rename_i rest hag
    refine .inl ⟨{ s with agenda := rest }, .inr ⟨rest, hag, rfl⟩, ?_⟩
    rcases engineTurn_cases { s with agenda := rest } with ⟨hi, he⟩ | ⟨i, hi, he⟩
    · rw [he] at h; injection h with h; exact .inl ⟨hi, h.symm⟩
    · rw [he] at h; injection h with h; exact .inr ⟨i, hi, h.symm⟩
  · exact .inr (.inl ⟨_, _, ‹_›, h⟩)
  · injection h with h; exact .inr (.inr ⟨_, ‹_›, h.symm⟩)

/-- BUSY is 1 exactly while a command is pending. -/
theorem State.busy_iff (s : State) : s.busy = true ↔ ∃ i, s.engine = .running i := by
  unfold State.busy
  cases s.engine <;> simp

@[simp] theorem State.busy_of_idle {s : State} (h : s.engine = .idle) : s.busy = false := by simp [State.busy, h]

end Sys2Proof.Machine
end

