-- ==== Sys2Proof/Laws/PerInstr.lean ====
section
/-! SUPPORT. Per-instruction families: for each, a statement about an instruction as syntax and one lemma per
constructor. -/

namespace Sys2Proof.Laws.WordForm

/-- The command word is well placed: RSVD is 0, OPCODE stands in bits 7:0, and the instruction is well formed
(30_encoding.md R300). -/
def Statement (i : Instr) : Prop := rsvdField (encode i) = 0#24 ∧ opcodeField (encode i) = opcode i ∧ i.wf = true

theorem compress : Statement .compress := by unfold Statement; decide
theorem decompress : Statement .decompress := by unfold Statement; decide
theorem lzwEncode : Statement .lzwEncode := by unfold Statement; decide
theorem lzwDecode : Statement .lzwDecode := by unfold Statement; decide
theorem hufBuild : Statement .hufBuild := by unfold Statement; decide
theorem hufCodegen : Statement .hufCodegen := by unfold Statement; decide
theorem pack : Statement .pack := by unfold Statement; decide
theorem unpack : Statement .unpack := by unfold Statement; decide
theorem serialize : Statement .serialize := by unfold Statement; decide
theorem parse : Statement .parse := by unfold Statement; decide

end Sys2Proof.Laws.WordForm
end

