-- ==== Sys2Proof/Tests/Slice0.lean ====
section
/-! SUPPORT. The model's own tests. Expected results come from spec/95_test_vectors.md (named at each test) or from the
encodings of spec/30_encoding.md; then, for every obligation with hypotheses, a witness that meets them. -/

namespace Sys2Proof.Tests

set_option Elab.async false

open Sys2Proof Sys2Proof.Machine

/-! ### Small states -/

/-- A small legal instance with this hardware's CEILING. -/
def small : Params := ⟨4096, 64, 64, 64, 64⟩

/-- Reset, with input bytes stored and IN_LEN set. -/
def withInput (p : Params) (b : List Byte) : State :=
  { State.resetOf p with inMem := Sparse.ofList b, inLen := BitVec.ofNat 32 b.length }

/-- A command run to its completion. -/
def after (i : Instr) (s : State) : State := s.complete (run i s)

theorem exec_after (i : Instr) (s : State) : exec i s = .next (after i s) := exec_eq_complete i s

/-- The state a step answers, where it answers one. -/
def nextOf (o : Host.Outcome State Fault Refusal) : State :=
  match o with
  | .next t => t
  | .fault _ => State.reset
  | .refused _ => State.reset

/-- "ABABABA" -/
def abab : List Byte := [0x41#8, 0x42#8, 0x41#8, 0x42#8, 0x41#8, 0x42#8, 0x41#8]

/-- The tree of V-HUF-1. -/
def tree4 : HufTree := .node (.node (.leaf 65) (.leaf 66)) (.node (.leaf 256) (.leaf 258))

/-- The arena of V-HUF-1. -/
def arena4 : List Node :=
  [.leaf 65 1, .leaf 66 1, .leaf 256 1, .leaf 258 1, .internal 0 1 2, .internal 2 3 2, .internal 4 5 4]

/-- The codes of V-CG-1. -/
def codes4 : Sparse Bits := [(65, [false, false]), (66, [false, true]), (256, [true, false]), (258, [true, true])]

/-- The artifact of V-CT-1. -/
def artifact4 : List Byte :=
  [0x00#8, 0x00#8, 0x00#8, 0x00#8, 0x07#8, 0x00#8, 0x00#8, 0x00#8, 0x00#8, 0x00#8, 0x01#8, 0x41#8, 0x00#8, 0x01#8,
   0x42#8, 0x00#8] ++
  [0x00#8, 0x01#8, 0x00#8, 0x01#8, 0x01#8, 0x02#8, 0x01#8, 0x01#8, 0x00#8, 0x00#8, 0x00#8, 0x00#8, 0x00#8, 0x00#8,
   0x00#8, 0x1B#8]

/-- The artifact of "A" (V-CT-3). -/
def artifactA : List Byte :=
  [0x07#8, 0x00#8, 0x00#8, 0x00#8, 0x01#8, 0x00#8, 0x00#8, 0x00#8, 0x01#8, 0x41#8, 0x00#8, 0x01#8, 0x00#8, 0x00#8,
   0x00#8, 0x00#8, 0x00#8, 0x00#8, 0x00#8, 0x00#8]

/-- The states of the ABABABA pipeline, one stage after the other, with this hardware's CEILING. -/
def stTok : State := (withInput small abab).putTokens [65, 66, 256, 258]
def stTree : State := stTok.putTree arena4 6 7
def stCodes : State := stTree.putCodes codes4
def stPk : State := stCodes.putPacked [0x1B#8] 0

/-- A state with a command pending. -/
def stBusy : State := (withInput small abab).accept .compress

/-- A result that is a success satisfying `p`. -/
def okIs {α : Type} (x : Except Cause α) (p : α → Bool) : Bool :=
  match x with
  | .ok e => p e
  | .error _ => false

theorem okIs_spec {α : Type} {x : Except Cause α} {p : α → Bool} (h : okIs x p = true) :
    ∃ e, x = .ok e ∧ p e = true := by
  cases x with
  | ok e => exact ⟨e, rfl, h⟩
  | error c => cases h

/-- A success with exactly the value `v`. -/
theorem ok_of_eq {α : Type} [DecidableEq α] {x : Except Cause α} {v : α} (h : okIs x (fun e => decide (e = v)) = true) :
    x = .ok v := by
  obtain ⟨e, he, hv⟩ := okIs_spec h
  rw [he, of_decide_eq_true hv]

/-- A failure with cause `c`. -/
def errIs {α : Type} (x : Except Cause α) (c : Cause) : Bool :=
  match x with
  | .ok _ => false
  | .error d => decide (d = c)

theorem error_of_eq {α : Type} {x : Except Cause α} {c : Cause} (h : errIs x c = true) : x = .error c := by
  cases x with
  | ok e => cases h
  | error d => rw [of_decide_eq_true (show decide (d = c) = true from h)]

/-! ### WellFormed refuses ill-formed terms, one for each check -/

theorem test_wf_small : small.wf = true := by decide
theorem test_wf_hardware : Config.thisHardware.wf = true := by decide
theorem test_wf_ceiling_low : (Params.wf ⟨255, 64, 64, 64, 64⟩) = false := by decide
theorem test_wf_ceiling_high : (Params.wf ⟨65537, 64, 64, 64, 64⟩) = false := by decide
theorem test_wf_in_cap : (Params.wf ⟨4096, 0, 64, 64, 64⟩) = false ∧ (Params.wf ⟨4096, 268435457, 64, 64, 64⟩) = false := by
  decide
theorem test_wf_out_cap : (Params.wf ⟨4096, 64, 0, 64, 64⟩) = false ∧ (Params.wf ⟨4096, 64, 268435457, 64, 64⟩) = false := by
  decide
theorem test_wf_tok_cap : (Params.wf ⟨4096, 64, 64, 0, 64⟩) = false ∧ (Params.wf ⟨4096, 64, 64, 134217729, 64⟩) = false := by
  decide
theorem test_wf_pk_cap : (Params.wf ⟨4096, 64, 64, 64, 0⟩) = false ∧ (Params.wf ⟨4096, 64, 64, 64, 268435457⟩) = false := by
  decide
theorem test_wf_program_wait : hostProgramWf (pseudoWait 1 2) = true := by decide
theorem test_wf_program_label_twice : hostProgramWf [.label 1, .label 1] = false := by decide
theorem test_wf_program_label_missing : hostProgramWf [.rd 4 (.reg .status) 2, .bnz 2 0x2#32 1] = false := by decide
theorem test_wf_program_name_unbound : hostProgramWf [.label 1, .bz 2 0x2#32 1] = false := by decide
theorem test_wf_program_value_unbound : hostProgramWf [.wr 4 (.reg .inLen) (.name 2)] = false := by decide

/-! ### Command words, bit by bit: RSVD (24 bits of 0) and OPCODE (30_encoding.md R300, R301) -/

theorem test_word_compress : decode 0b00000000000000000000000000000001#32 = .cmd .compress := by decide
theorem test_word_decompress : decode 0b00000000000000000000000000000010#32 = .cmd .decompress := by decide
theorem test_word_lzwEncode : decode 0b00000000000000000000000000010000#32 = .cmd .lzwEncode := by decide
theorem test_word_lzwDecode : decode 0b00000000000000000000000000010001#32 = .cmd .lzwDecode := by decide
theorem test_word_hufBuild : decode 0b00000000000000000000000000100000#32 = .cmd .hufBuild := by decide
theorem test_word_hufCodegen : decode 0b00000000000000000000000000100001#32 = .cmd .hufCodegen := by decide
theorem test_word_pack : decode 0b00000000000000000000000000110000#32 = .cmd .pack := by decide
theorem test_word_unpack : decode 0b00000000000000000000000000110001#32 = .cmd .unpack := by decide
theorem test_word_serialize : decode 0b00000000000000000000000001000000#32 = .cmd .serialize := by decide
theorem test_word_parse : decode 0b00000000000000000000000001000001#32 = .cmd .parse := by decide

/-- R302, R303: a reserved opcode, opcode 0, and a set RSVD bit are illegal, each with its bits 7:0. -/
theorem test_word_illegal :
    decode 0x000000FF#32 = .illegal 0xFF#8 ∧ decode 0x00000000#32 = .illegal 0x00#8 ∧
    decode 0x80000001#32 = .illegal 0x01#8 ∧ decode 0x00000140#32 = .illegal 0x40#8 := by decide

theorem test_decodeTableWord :
    decodeTableWord 32 0x20 = some .hufBuild ∧ decodeTableWord 32 0x22 = none ∧ decodeTableWord 8 0x141 = some .parse := by
  decide

/-! ### One step each -/

/-- V-LZW-1 -/
theorem test_lzwEncode : (after .lzwEncode (withInput small abab)).tokens = [65, 66, 256, 258] := by decide +kernel

/-- V-LZW-9 -/
theorem test_lzwEncode_capacity :
    (after .lzwEncode (withInput ⟨4096, 64, 64, 3, 64⟩ abab)).error.word = 0x00100305#32 := by decide +kernel

/-- V-LZW-5 -/
theorem test_lzwDecode : (after .lzwDecode stTok).outBytes = abab := by decide +kernel

/-- V-LZW-6, [65, 257] -/
theorem test_lzwDecode_badCode :
    (after .lzwDecode ((withInput small []).putTokens [65, 257])).error.word = 0x00110D02#32 := by decide +kernel

/-- V-HUF-1 -/
theorem test_hufBuild :
    (after .hufBuild stTok).arena = Sparse.ofList arena4 ∧ (after .hufBuild stTok).root = 6 ∧
    (after .hufBuild stTok).valid.word = 0x3#32 := by decide +kernel

/-- V-HUF-3: the lower frequency is popped first and becomes the left child. -/
theorem test_hufBuild_order : hufBuild 4096 [5, 5, 5, 7] = ⟨[.leaf 5 3, .leaf 7 1, .internal 1 0 4], 2, 3⟩ := by
  decide +kernel

/-- V-CG-1 -/
theorem test_hufCodegen : (after .hufCodegen stTree).codes = codes4 := by decide +kernel

/-- V-CG-4 -/
theorem test_hufCodegen_leaf : codeTable (.leaf 65) = [(65, [false])] := by decide +kernel

/-- V-PK-1 -/
theorem test_pack : (after .pack stCodes).pkBytes = [0x1B#8] ∧ (after .pack stCodes).padLen = 0#3 := by decide +kernel

/-- V-PK-4: three bits, five bits of padding. -/
theorem test_pack_padding :
    packTokens (codeTable (.node (.leaf 256) (.leaf 65))) 64 [65, 256, 65] = .ok ([0xA0#8], 5) :=
  ok_of_eq (by decide +kernel)

/-- V-UP-1 -/
theorem test_unpack : (after .unpack stPk).tokens = [65, 66, 256, 258] := by decide +kernel

/-- V-UP-9 -/
theorem test_unpack_padNonzero :
    unpackTokens 64 (.node (.leaf 65) (.leaf 66)) [0x41#8] 6 = .error (.corrupt .padNonzero) :=
  error_of_eq (by decide +kernel)

/-- V-CT-1 -/
theorem test_serialize :
    (after .serialize stPk).outBytes = artifact4 ∧ (after .serialize stPk).valid.word = 0xF#32 := by decide +kernel

/-- V-CT-4, with OUT_CAP = 31 -/
theorem test_serialize_capacity :
    (after .serialize { stPk with params := ⟨4096, 64, 31, 64, 64⟩ }).error.word = 0x00400205#32 := by decide +kernel

/-- V-PA-1, but for the frequency fields (93 U8) -/
theorem test_parse :
    (after .parse (withInput small artifact4)).tree? = some tree4 ∧
    (after .parse (withInput small artifact4)).root = 0 ∧
    (after .parse (withInput small artifact4)).nodeCount = 7#17 ∧
    (after .parse (withInput small artifact4)).pkBytes = [0x1B#8] ∧
    (after .parse (withInput small artifact4)).valid.word = 0xA#32 := by decide +kernel

/-- V-PA-4, "count 8192 > NODE_CAP 8191" -/
theorem test_parse_treeShape :
    (after .parse (withInput small [0x06#8, 0x00#8, 0x00#8, 0x00#8, 0x00#8, 0x20#8, 0x00#8, 0x00#8])).error.word =
      0x00410602#32 := by decide +kernel

/-- V-PIPE-1, "ABABABA" -/
theorem test_compress :
    (after .compress (withInput small abab)).outBytes = artifact4 ∧
    (after .compress (withInput small abab)).statusWord = 0x2#32 ∧
    (after .compress (withInput small abab)).progress = 100#7 := by decide +kernel

/-- V-PIPE-3 -/
theorem test_compress_empty : (after .compress (withInput small [])).error.word = 0x00010001#32 := by decide +kernel

/-- V-PIPE-1, "A" back from its artifact, VALID = 0xB -/
theorem test_decompress :
    (after .decompress (withInput small artifactA)).outBytes = [0x41#8] ∧
    (after .decompress (withInput small artifactA)).valid.word = 0xB#32 := by decide +kernel

/-- R710 with R840: the IN check comes first and carries DECOMPRESS's opcode. -/
theorem test_decompress_inCap :
    (after .decompress { withInput small abab with params := ⟨4096, 6, 64, 64, 64⟩ }).error.word = 0x00020105#32 := by
  decide +kernel

/-- R902: an illegal word is BAD_COMMAND at once, with BUSY never set. -/
theorem test_step_badCommand :
    (nextOf (step { withInput small abab with agenda := [.host (.write 0x008#32 4 0x000001FF#32)] })).error.word =
      0x00FF0003#32 := by decide +kernel

/-- R213: a 2-byte access to the register page is refused. -/
theorem test_bus_refused (v : Word) :
    busAccess State.reset (.write 0x014#32 2 v) = .refused (.accessNotAdmitted (.write 0x014#32 2 v)) := rfl

/-- R305 with R102: P5's `RD32 CFG -> g` binds 0x00001000, and every register name stands for its offset. -/
theorem test_host_cfg :
    (match hostTurn [.rd 4 (.reg .cfg) 0] HostCpu.start State.reset with
      | .next h _ => Sparse.read h.names 0
      | _ => none) = some 0x00001000#32 ∧
    [RegName.cfg, .ctrl, .cmd, .status, .error, .inLen, .outLen, .tokLen, .pkLen, .padLen, .valid, .nodeCount,
      .progress].map regOffset = [0x000#32, 0x004#32, 0x008#32, 0x00C#32, 0x010#32, 0x014#32, 0x018#32, 0x01C#32,
      0x020#32, 0x024#32, 0x028#32, 0x02C#32, 0x030#32] := by decide +kernel

/-- R305: `TOK+4` is the window base plus 4. -/
theorem test_host_window : hostAddr (.win .tok 4) = 0x30000004#32 := by decide

/-- R205, R213: a 1-byte and a 2-byte read of the last token, 258. -/
theorem test_read_tok_narrow :
    readValue stTok 0x30000006#32 1 = 0x02#32 ∧ readValue stTok 0x30000006#32 2 = 0x0102#32 := by decide +kernel

/-- R205, V-LZW-1: TOK+4 reads 0x01020100. -/
theorem test_read_tok : readValue stTok 0x30000004#32 4 = 0x01020100#32 := by decide +kernel

/-- The reset memories are in canonical form. -/
theorem test_reset_memories_wf :
    Memory.wf State.reset.inMem = true ∧ Memory.wf State.reset.outMem = true ∧ Sparse.wf State.reset.tokMem = true ∧
    Memory.wf State.reset.pkMem = true ∧ Sparse.wf State.reset.arena = true ∧ Sparse.wf State.reset.codes = true :=
  resetOf_memories_wf Config.thisHardware

/-- R904, the table's HUF_CODEGEN row: placed after reset, the word runs in the next step. -/
theorem test_withFetchWord : (nextOf (step (State.reset.withFetchWord 32 0x21))).error.word = 0x00210204#32 := by
  decide +kernel

/-! ### Witnesses: each names an obligation and meets its hypotheses together, clause by clause -/

theorem witness_LegalWordsAreTheTenOpcodes :
    (∃ w : Word, w.extractLsb' 8 24 = 0#24 ∧
      w.extractLsb' 0 8 ∈ [0x01#8, 0x02#8, 0x10#8, 0x11#8, 0x20#8, 0x21#8, 0x30#8, 0x31#8, 0x40#8, 0x41#8]) ∧
    (∃ w : Word, ¬(w.extractLsb' 8 24 = 0#24 ∧
      w.extractLsb' 0 8 ∈ [0x01#8, 0x02#8, 0x10#8, 0x11#8, 0x20#8, 0x21#8, 0x30#8, 0x31#8, 0x40#8, 0x41#8])) :=
  ⟨⟨0x00000041#32, by decide⟩, ⟨0x00000141#32, by decide⟩⟩

theorem witness_StepRunsThePendingCommand :
    (∃ s : State, ∃ i, s.engine = .running i ∧ s.agenda = []) ∧
    (∃ s : State, ∃ i rest, s.engine = .running i ∧ s.agenda = .engine :: rest) ∧
    (∃ s : State, s.engine = .idle ∧ s.agenda = []) ∧
    (∃ s : State, ∃ rest, s.engine = .idle ∧ s.agenda = .engine :: rest) :=
  ⟨⟨stBusy, _, rfl, rfl⟩, ⟨{ stBusy with agenda := [.engine] }, _, _, rfl, rfl⟩, ⟨stTok, rfl, rfl⟩,
    ⟨{ stTok with agenda := [.engine] }, _, rfl, rfl⟩⟩

theorem witness_CmdWriteFollowsTheIssueRule :
    (∃ s : State, ∃ v rest, s.agenda = .host (.write 0x008#32 4 v) :: rest ∧ s.busy = true) ∧
    (∃ s : State, ∃ v rest, s.agenda = .host (.write 0x008#32 4 v) :: rest ∧ s.busy = false ∧ ∀ i, v ≠ encode i) ∧
    (∃ s : State, ∃ v rest i, s.agenda = .host (.write 0x008#32 4 v) :: rest ∧ s.busy = false ∧ v = encode i) :=
  ⟨⟨{ stBusy with agenda := [.host (.write 0x008#32 4 0x20#32)] }, _, _, rfl, rfl⟩,
    ⟨{ stTok with agenda := [.host (.write 0x008#32 4 0x120#32)] }, 0x120#32, _, rfl, rfl,
      fun i => by cases i <;> decide⟩,
    ⟨{ stTok with agenda := [.host (.write 0x008#32 4 (encode .hufBuild))] }, _, _, .hufBuild, rfl, rfl, rfl⟩⟩

/-- The admitted side at the last register offset and the refused side at each reason of R213. -/
theorem witness_StopsExactlyOnAccessesNotAdmitted :
    (∃ s : State, ∃ a rest, s.agenda = .host a :: rest ∧ Admitted a) ∧
    (∃ s : State, ∃ a rest, s.agenda = .host a :: rest ∧ ¬Admitted a) ∧
    ¬Admitted (.read 0xFFC#32 2) ∧ ¬Admitted (.read 0x10000002#32 4) ∧ ¬Admitted (.write 0x10000000#32 3 0#32) :=
  ⟨⟨{ stTok with agenda := [.host (.read 0xFFC#32 4)] }, _, _, rfl, by simp [Admitted, AccessAdmitted]⟩,
    ⟨{ stTok with agenda := [.host (.read 0x001#32 4)] }, _, _, rfl, by simp [Admitted, AccessAdmitted]⟩,
    by simp [Admitted, AccessAdmitted], by simp [Admitted, AccessAdmitted], by simp [Admitted, AccessAdmitted]⟩

theorem witness_EveryCommandCompletes : ∃ t, exec .compress (withInput small abab) = .next t ∧ t.err = false :=
  ⟨_, exec_after _ _, by decide +kernel⟩

theorem witness_ErrorCompletionDropsEveryResult :
    ∃ t, exec .decompress stCodes = .next t ∧ t.error.code ≠ 0#8 := ⟨_, exec_after _ _, by decide +kernel⟩

theorem witness_ErrorsAreThoseOfTheTables :
    ∃ t, exec .parse stCodes = .next t ∧ t.error.code ≠ 0#8 := ⟨_, exec_after _ _, by decide +kernel⟩

theorem witness_MissingValidBitsRaiseSequenceError :
    ∃ s : State, s.valid.tok = false ∧ s.valid.tree = false ∧ (s.valid.tok && s.valid.codes) = false ∧
      (s.valid.tree && s.valid.pk) = false := ⟨State.reset, rfl, rfl, rfl, rfl⟩

theorem witness_CompositesRaiseOnlyTheirErrors :
    ∃ s t u : State, s.params.wf = true ∧ exec .compress s = .next t ∧ t.err = true ∧
      exec .decompress s = .next u ∧ u.err = true :=
  ⟨withInput small [], _, _, by decide, exec_after _ _, by decide +kernel, exec_after _ _, by decide +kernel⟩

theorem witness_CommandsLeaveTheInputAlone : ∃ t, exec .lzwEncode (withInput small abab) = .next t :=
  ⟨_, exec_after _ _⟩

/-- V-LZW-9 at its boundary: 7 bytes, 4 tokens, TOK_CAP = 4, IN_CAP = IN_LEN; and IN_LEN = 0. -/
theorem witness_LzwEncodeWritesTheTokens :
    (∃ s : State, s.params.wf = true ∧ s.inLen.toNat = s.params.inCap ∧ s.params.tokCap < s.inLen.toNat ∧
      lzwEncode s.params.ceiling s.params.tokCap s.inBytes = .ok [65, 66, 256, 258]) ∧
    (∃ s : State, s.params.wf = true ∧ s.inLen.toNat ≤ s.params.inCap ∧
      lzwEncode s.params.ceiling s.params.tokCap s.inBytes = .ok []) :=
  ⟨⟨withInput ⟨4096, 7, 64, 4, 64⟩ abab, by decide, by decide, by decide, ok_of_eq (by decide +kernel)⟩,
    ⟨withInput small [], by decide, by decide, ok_of_eq (by decide +kernel)⟩⟩

/-- IN_LEN = IN_CAP + 1; TOK_CAP = 4 and TOK_CAP = 3 for four tokens (V-LZW-9). -/
theorem witness_LzwEncodeCapacity :
    (∃ s : State, s.params.inCap + 1 = s.inLen.toNat) ∧
    (∃ s : State, s.inLen.toNat ≤ s.params.inCap ∧
      lzwEncode s.params.ceiling s.params.tokCap s.inBytes = .ok [65, 66, 256, 258]) ∧
    (∃ s : State, s.inLen.toNat ≤ s.params.inCap ∧
      lzwEncode s.params.ceiling s.params.tokCap s.inBytes = .error (.capacity .tok)) :=
  ⟨⟨withInput ⟨4096, 6, 64, 64, 64⟩ abab, by decide⟩,
    ⟨withInput ⟨4096, 64, 64, 4, 64⟩ abab, by decide, ok_of_eq (by decide +kernel)⟩,
    ⟨withInput ⟨4096, 64, 64, 3, 64⟩ abab, by decide, error_of_eq (by decide +kernel)⟩⟩

theorem witness_LzwTokensBoundedAndCounted :
    (∃ t, lzwEncode 256 64 [0x41#8] = .ok t ∧ 1 ≤ [0x41#8].length) ∧
    (∃ e e', encodeBytes 258 64 EncState.init [0x41#8] = .ok e ∧ e.w ≠ [] ∧ encodeByte 258 64 e 0x42#8 = .ok e') := by
  refine ⟨⟨[65], ok_of_eq (by decide +kernel), by decide⟩, ⟨dictSeed, [0x41#8], []⟩, ?_⟩
  obtain ⟨e', he, -⟩ := okIs_spec (x := encodeByte 258 64 ⟨dictSeed, [0x41#8], []⟩ 0x42#8)
    (p := fun e : EncState => e.out.length == 1) (by decide +kernel)
  exact ⟨e', ok_of_eq (by decide +kernel), by decide, he⟩

/-- V-LZW-7, CEILING 258: the state after the reset that follows token 2. -/
theorem witness_LzwDictionaryIsInjective :
    ∃ e, encodeBytes 258 64 EncState.init (abab.take 5) = .ok e ∧ (e.out == [65, 66, 256]) = true :=
  okIs_spec (p := fun e : EncState => e.out == [65, 66, 256]) (by decide +kernel)

theorem witness_LzwResetCadence :
    (∃ e, encodeBytes 258 64 EncState.init (abab.take 5) = .ok e ∧ (e.out.length == 3) = true) ∧
    (∃ d, decodeTokens 258 64 ⟨dictSeed, [0x41#8], [0x41#8]⟩ [66, 256, 65] = .ok d ∧ (d.out.length == 5) = true) :=
  ⟨okIs_spec (p := fun e : EncState => e.out.length == 3) (by decide +kernel),
    okIs_spec (p := fun d : DecState => d.out.length == 5) (by decide +kernel)⟩

/-- V-LZW-7, CEILING 258: the encoder has reset after token 2, and the decoder resets at token 3. -/
theorem witness_LzwDictionariesAgreeAndAreBounded :
    (∃ e, encodeBytes 258 64 EncState.init (abab.take 5) = .ok e ∧ (e.out == 65 :: [66, 256]) = true) ∧
    lzwEncode 258 64 (abab.take 5 ++ [0x42#8, 0x41#8, 0x42#8]) = .ok (65 :: [66, 256] ++ 65 :: [66, 256]) ∧
    (∃ d, decodeTokens 258 64 ⟨dictSeed, [BitVec.ofNat 8 65], [BitVec.ofNat 8 65]⟩ ([66, 256] ++ [65]) = .ok d ∧
      (d.out.length == 5) = true) :=
  ⟨okIs_spec (p := fun e : EncState => e.out == 65 :: [66, 256]) (by decide +kernel), ok_of_eq (by decide +kernel),
    okIs_spec (p := fun d : DecState => d.out.length == 5) (by decide +kernel)⟩

theorem witness_LzwDecodeWritesTheBytes :
    stTok.params.wf = true ∧ stTok.valid.tok = true ∧
    lzwDecode stTok.params.ceiling stTok.params.outCap stTok.tokens = .ok abab := ⟨by decide, rfl, ok_of_eq (by decide +kernel)⟩

/-- The first two clauses; the third with a bad code one above the free-code counter (V-LZW-6, [65, 257]); the fourth at
V-LZW-10's boundary, OUT_CAP = 6 for 7 bytes, with a KwKwK token, and with a known one. -/
theorem witness_LzwDecodeRejectsBadTokens :
    (∃ s : State, s.valid.tok = true ∧ 1 ≤ s.params.outCap ∧ s.tokens = []) ∧
    (∃ s : State, s.valid.tok = true ∧ 1 ≤ s.params.outCap ∧ s.tokens = 256 :: [] ∧ 256 ≤ 256) ∧
    (∃ (s : State) (d : DecState), s.valid.tok = true ∧ 1 ≤ s.params.outCap ∧ s.tokens = 65 :: [] ++ 257 :: [] ∧ 65 < 256 ∧
      decodeTokens s.params.ceiling s.params.outCap
        ⟨dictSeed, [BitVec.ofNat 8 65], [BitVec.ofNat 8 65]⟩ [] = .ok d ∧ d.dict.length < 257) ∧
    (∃ (s : State) (d : DecState), s.valid.tok = true ∧ 1 ≤ s.params.outCap ∧
      s.tokens = 65 :: [66, 256] ++ 258 :: [] ∧ 65 < 256 ∧
      decodeTokens s.params.ceiling s.params.outCap
        ⟨dictSeed, [BitVec.ofNat 8 65], [BitVec.ofNat 8 65]⟩ [66, 256] = .ok d ∧
      258 = d.dict.length ∧ s.params.outCap + 1 = d.out.length + (d.w ++ d.w.take 1).length) ∧
    (∃ (s : State) (d : DecState), s.valid.tok = true ∧ 1 ≤ s.params.outCap ∧ s.tokens = 65 :: [] ++ 66 :: [] ∧ 65 < 256 ∧
      decodeTokens s.params.ceiling s.params.outCap
        ⟨dictSeed, [BitVec.ofNat 8 65], [BitVec.ofNat 8 65]⟩ [] = .ok d ∧
      d.dict[66]? = some [0x42#8] ∧ s.params.outCap < d.out.length + [0x42#8].length) := by
  refine ⟨⟨(withInput small []).putTokens [], rfl, by decide, by decide +kernel⟩,
    ⟨(withInput small []).putTokens [256], rfl, by decide, by decide +kernel, le_rfl⟩,
    ⟨(withInput small []).putTokens [65, 257], _, rfl, by decide, by decide +kernel, by decide, rfl, by simp⟩, ?_,
    ⟨(withInput ⟨4096, 64, 1, 64, 64⟩ []).putTokens [65, 66], _, rfl, by decide, by decide +kernel, by decide, rfl,
      by decide +kernel, by decide⟩⟩
  obtain ⟨d, hd, hp⟩ := okIs_spec
    (x := decodeTokens 4096 6 ⟨dictSeed, [BitVec.ofNat 8 65], [BitVec.ofNat 8 65]⟩ [66, 256])
    (p := fun d : DecState => decide (258 = d.dict.length ∧ 6 + 1 = d.out.length + (d.w ++ d.w.take 1).length))
    (by decide +kernel)
  exact ⟨(withInput ⟨4096, 64, 6, 64, 64⟩ []).putTokens [65, 66, 256, 258], d, rfl, by decide, by decide +kernel,
    by decide, hd, (of_decide_eq_true hp).1, (of_decide_eq_true hp).2⟩

/-- With a token after each of the first three, so that the second part has its cases. -/
theorem witness_LzwRoundTrip :
    abab ≠ [] ∧ abab.length ≤ 7 ∧ lzwEncode 258 64 abab = .ok (65 :: [66, 256] ++ 65 :: [66, 65]) ∧
    (∃ e, encodeBytes 258 64 EncState.init (abab.take 5) = .ok e ∧ (e.out == 65 :: [66, 256]) = true) :=
  ⟨by decide, by decide, ok_of_eq (by decide +kernel),
    okIs_spec (p := fun e : EncState => e.out == 65 :: [66, 256]) (by decide +kernel)⟩

theorem witness_HufBuildLoadsTheTree :
    (∃ s : State, s.params.wf = true ∧ s.valid.tok = true ∧ (∀ x ∈ s.tokens, x < s.params.ceiling) ∧ s.tokLen = 0#32) ∧
    (∃ s : State, s.params.wf = true ∧ s.valid.tok = true ∧ (∀ x ∈ s.tokens, x < s.params.ceiling) ∧ s.tokLen ≠ 0#32) :=
  ⟨⟨(withInput small []).putTokens [], by decide, rfl, by decide +kernel, rfl⟩,
    ⟨stTok, by decide, rfl, by decide +kernel, by decide⟩⟩

theorem witness_HufBuildDependsOnTheMultiset : List.Perm [65, 66, 65] [66, 65, 65] := List.Perm.swap 66 65 [65]

theorem witness_QueueHeadIsTheLeastEntry :
    (∃ e rest, [⟨2, 5, 0⟩, ⟨1, 7, 1⟩].foldr pqInsert [] = e :: rest) ∧
    ([⟨2, 5, 0⟩, ⟨1, 7, 1⟩] : List PqEntry).Perm [⟨1, 7, 1⟩, ⟨2, 5, 0⟩] ∧
    (([⟨2, 5, 0⟩, ⟨1, 7, 1⟩] : List PqEntry).map (·.seq)).Nodup :=
  ⟨⟨⟨1, 7, 1⟩, [⟨2, 5, 0⟩], by decide⟩, List.Perm.swap _ _ _, by decide⟩

theorem witness_HufCodegenWritesThePaths :
    stTree.valid.tree = true ∧ stTree.tree? = some tree4 ∧ tree4.symbols.Nodup :=
  ⟨rfl, by decide +kernel, by decide⟩

/-- Both sizes of alphabet: four leaves, and one. -/
theorem witness_CodeTableIsAPrefixCode :
    (∃ p q, tree4.symbols.Nodup ∧ 2 ≤ tree4.symbols.length ∧ Sparse.read (codeTable tree4) 65 = some p ∧
      Sparse.read (codeTable tree4) 65 = some q ∧ p <+: q) ∧
    (∃ p, (HufTree.leaf 65).symbols.Nodup ∧ (HufTree.leaf 65).symbols.length = 1 ∧
      Sparse.read (codeTable (.leaf 65)) 65 = some p) :=
  ⟨⟨[false, false], [false, false], by decide, by decide, by decide +kernel, by decide +kernel, List.prefix_rfl⟩,
    ⟨[false], by decide, by decide, by decide +kernel⟩⟩

/-- At the boundary 8 * PK_CAP bits. -/
theorem witness_PackWritesTheBits :
    ∃ (s : State) (B : Bits), s.params.wf = true ∧ s.valid.tok = true ∧ s.valid.codes = true ∧
      codeBits s.codes s.tokens = .ok B ∧ B.length = 8 * s.params.pkCap :=
  ⟨{ stCodes with params := ⟨4096, 64, 64, 64, 1⟩ }, [false, false, false, true, true, false, true, true],
    by decide, rfl, rfl, ok_of_eq (by decide +kernel), by decide⟩

theorem witness_PackConcatenatesTheCodes :
    (∀ x ∈ [65, 66], (Sparse.read codes4 x).isSome = true) ∧ (∃ x ∈ [65, 67], Sparse.read codes4 x = none) := by decide

/-- One token without a code; and nine bits where PK_CAP is 1. -/
theorem witness_PackErrors :
    (∃ s : State, s.valid.tok = true ∧ s.valid.codes = true ∧ ∃ x ∈ s.tokens, Sparse.read s.codes x = none) ∧
    (∃ (s : State) (B : Bits), s.valid.tok = true ∧ s.valid.codes = true ∧ codeBits s.codes s.tokens = .ok B ∧
      8 * s.params.pkCap + 1 = B.length) :=
  ⟨⟨stCodes.putTokens [67], rfl, rfl, by decide +kernel⟩,
    ⟨{ (stCodes.putCodes [(65, List.replicate 9 true)]).putTokens [65] with params := ⟨4096, 64, 64, 64, 1⟩ },
      List.replicate 9 true, rfl, rfl, ok_of_eq (by decide +kernel), by decide⟩⟩

/-- A full packed buffer (V-UP-1), an empty one (V-UP-6), and TOK_CAP = 3 for four tokens. -/
theorem witness_UnpackWritesTheTokens :
    (∃ s : State, s.valid.tree = true ∧ s.valid.pk = true ∧ s.params.wf = true ∧ s.tree? = some tree4 ∧
      unpackTokens s.params.tokCap tree4 s.pkBytes s.padLen.toNat = .ok [65, 66, 256, 258]) ∧
    (∃ s : State, s.valid.tree = true ∧ s.valid.pk = true ∧ s.pkLen = 0#32 ∧ s.padLen = 0#3) ∧
    (∃ (s : State) (B : Bits), s.valid.tree = true ∧ s.valid.pk = true ∧ s.tree? = some tree4 ∧ tree4.symbols.Nodup ∧
      codeBits (codeTable tree4) [65, 66, 256, 258] = .ok B ∧ s.params.tokCap + 1 = [65, 66, 256, 258].length ∧
      (bitsOfBytes s.pkBytes).take (8 * s.pkBytes.length - s.padLen.toNat) = B ++ []) :=
  ⟨⟨stPk, rfl, rfl, by decide, by decide +kernel, ok_of_eq (by decide +kernel)⟩,
    ⟨stCodes.putPacked [] 0, rfl, rfl, rfl, rfl⟩,
    ⟨{ stPk with params := ⟨4096, 64, 64, 3, 64⟩ }, [false, false, false, true, true, false, true, true], rfl, rfl,
      by decide +kernel, by decide, ok_of_eq (by decide +kernel), by decide, by decide +kernel⟩⟩

/-- A single-leaf tree with these packed bytes and padding, in an instance with TOK_CAP = 1. -/
def stLeaf (pk : List Byte) (pad : Nat) : State :=
  ((withInput ⟨4096, 64, 64, 1, 64⟩ []).putTree [.leaf 65 1] 0 1).putPacked pk pad

/-- The walk at n = TOK_CAP and n = TOK_CAP + 1; then UNPACK at TOK_CAP = 1: one payload bit 0 (V-UP-3), a payload bit 1
first (V-UP-5) and after TOK_CAP bits 0, and two bits 0. -/
theorem witness_UnpackSingleLeafTree :
    (∃ cap n : Nat, n ≤ cap ∧ n = cap) ∧ (∃ cap n : Nat, cap < n ∧ n = cap + 1) ∧
    (∃ s : State, s.params.wf = true ∧ s.valid.tree = true ∧ s.valid.pk = true ∧ s.tree? = some (.leaf 65) ∧
      (bitsOfBytes s.pkBytes).take (8 * s.pkBytes.length - s.padLen.toNat) = List.replicate 1 false ∧
      1 = s.params.tokCap ∧ (∀ j, 1 ≤ j → packedBit s.pkBytes j = false)) ∧
    (∃ s : State, s.params.wf = true ∧ s.valid.tree = true ∧ s.valid.pk = true ∧ s.tree? = some (.leaf 65) ∧
      (bitsOfBytes s.pkBytes).take (8 * s.pkBytes.length - s.padLen.toNat) = List.replicate 0 false ++ true :: [] ∧
      0 ≤ s.params.tokCap) ∧
    (∃ s : State, s.params.wf = true ∧ s.valid.tree = true ∧ s.valid.pk = true ∧ s.tree? = some (.leaf 65) ∧
      (bitsOfBytes s.pkBytes).take (8 * s.pkBytes.length - s.padLen.toNat) = List.replicate 1 false ++ true :: [] ∧
      1 = s.params.tokCap) ∧
    (∃ s : State, s.params.wf = true ∧ s.valid.tree = true ∧ s.valid.pk = true ∧ s.tree? = some (.leaf 65) ∧
      (bitsOfBytes s.pkBytes).take (8 * s.pkBytes.length - s.padLen.toNat) = List.replicate 2 false ++ [] ∧
      s.params.tokCap + 1 = 2) :=
  ⟨⟨4, 4, le_rfl, rfl⟩, ⟨4, 5, by decide, rfl⟩,
    ⟨stLeaf [0x00#8] 7, by decide, rfl, rfl, by decide +kernel, by decide +kernel, rfl, fun j _ => by
      rw [show (stLeaf [0x00#8] 7).pkBytes = [0x00#8] by decide +kernel, packedBit]
      split
      · rename_i b hb
        obtain ⟨_, rfl⟩ := List.getElem?_eq_some_iff.1 hb
        simp
      · rfl⟩,
    ⟨stLeaf [0x80#8] 7, by decide, rfl, rfl, by decide +kernel, by decide +kernel, by decide⟩,
    ⟨stLeaf [0x40#8] 6, by decide, rfl, rfl, by decide +kernel, by decide +kernel, rfl⟩,
    ⟨stLeaf [0x00#8] 6, by decide, rfl, rfl, by decide +kernel, by decide +kernel, rfl⟩⟩

/-- The code of 258 and then bit 0, which leaves the walk at the left child (as in V-UP-7); 5 bits of padding. -/
theorem witness_UnpackMidWalk :
    ∃ s : State, s.valid.tree = true ∧ s.valid.pk = true ∧ s.tree? = some tree4 ∧ tree4.symbols.Nodup ∧
      codeBits (codeTable tree4) [258] = .ok [true, true] ∧ [258].length ≤ s.params.tokCap ∧
      ([false] : Bits) ≠ [] ∧ tree4.follow [false] = some (.node (.leaf 65) (.leaf 66)) ∧
      (bitsOfBytes s.pkBytes).take (8 * s.pkBytes.length - s.padLen.toNat) = [true, true] ++ [false] :=
  ⟨stCodes.putPacked [0xC0#8] 5, rfl, rfl, by decide +kernel, by decide, ok_of_eq (by decide +kernel), by decide,
    by decide, by decide, by decide +kernel⟩

/-- V-UP-9 against V-PK-5: byte 41 for byte 40, with 6 bits of padding; at the last padding bit. -/
theorem witness_UnpackRejectsNonzeroPadding :
    (∃ s : State, s.valid.tree = true ∧ s.valid.pk = true ∧ s.tree? = some (.node (.leaf 65) (.leaf 66)) ∧
      walkBits s.params.tokCap (.node (.leaf 65) (.leaf 66)) (.node (.leaf 65) (.leaf 66)) []
        ((bitsOfBytes s.pkBytes).take (8 * s.pkBytes.length - s.padLen.toNat)) = .ok [65, 66] ∧
      8 * s.pkBytes.length - s.padLen.toNat ≤ 7 ∧ 7 < 8 * s.pkBytes.length ∧ packedBit s.pkBytes 7 = true) ∧
    unpackTokens 64 (.node (.leaf 65) (.leaf 66)) [0x40#8] 6 = .ok [65, 66] ∧
    (∀ j, j < 8 * [0x40#8].length - 6 → packedBit [0x41#8] j = packedBit [0x40#8] j) ∧
    ([0x41#8] : List Byte) ≠ [0x40#8] :=
  ⟨⟨((withInput small []).putTree [.leaf 65 1, .leaf 66 1, .internal 0 1 2] 2 3).putPacked [0x41#8] 6, rfl, rfl,
      by decide +kernel, ok_of_eq (by decide +kernel), by decide +kernel, by decide +kernel, by decide +kernel⟩,
    ok_of_eq (by decide +kernel), by decide, by decide⟩

theorem witness_PackUnpackRoundTrip :
    tree4.symbols.Nodup ∧ (∀ x ∈ [65, 66, 256, 258], x ∈ tree4.symbols) ∧ [65, 66, 256, 258].length ≤ 4 ∧
    packTokens (codeTable tree4) 1 [65, 66, 256, 258] = .ok ([0x1B#8], 0) := ⟨by decide, by decide, by decide, ok_of_eq (by decide +kernel)⟩

/-- At the boundary, 32 bytes: OUT_CAP 32 and OUT_CAP 31 (V-CT-4). -/
theorem witness_SerializeWritesTheArtifact :
    ∃ a : List Byte, a = leBytes 4 stPk.padLen.toNat ++ leBytes 4 stPk.nodeCount.toNat ++ serTree tree4 ++
        leBytes 8 stPk.pkLen.toNat ++ stPk.pkBytes ∧
      (∃ s : State, s = { stPk with params := ⟨4096, 64, 32, 64, 64⟩ } ∧ s.params.wf = true ∧ s.valid.tree = true ∧
        s.valid.pk = true ∧ s.tree? = some tree4 ∧ a.length = s.params.outCap) ∧
      (∃ s : State, s = { stPk with params := ⟨4096, 64, 31, 64, 64⟩ } ∧ s.params.wf = true ∧ s.valid.tree = true ∧
        s.valid.pk = true ∧ s.tree? = some tree4 ∧ a.length = s.params.outCap + 1) :=
  ⟨_, rfl, ⟨_, rfl, by decide, rfl, rfl, by decide +kernel, by decide +kernel⟩,
    ⟨_, rfl, by decide, rfl, rfl, by decide +kernel, by decide +kernel⟩⟩

theorem tree4_ok : HufTreeOk 4096 tree4 := ⟨by decide, by decide⟩

/-- IN_LEN = IN_CAP, PK_LEN = PK_CAP. -/
theorem witness_ParseLoadsEveryArtifact :
    ∃ s : State, s.params.wf = true ∧ s.inLen.toNat ≤ s.params.inCap ∧ HufTreeOk s.params.ceiling tree4 ∧ 0 ≤ 7 ∧
      (([0x1B#8] : List Byte) = [] → 0 = 0) ∧ [0x1B#8].length ≤ s.params.pkCap ∧
      s.inBytes = artifact tree4 tree4.nodes [0x1B#8] 0 :=
  ⟨withInput ⟨4096, 32, 64, 64, 1⟩ artifact4, by decide, by decide, tree4_ok, by decide, fun _ => rfl, by decide,
    by decide +kernel⟩

theorem witness_ParseAcceptsOnlyArtifacts :
    ∃ s t : State, s.params.wf = true ∧ exec .parse s = .next t ∧ t.err = false :=
  ⟨withInput small artifact4, _, by decide, exec_after _ _, by decide +kernel⟩

/-- Each clause at the ends of its range: IN_LEN 3, 4, 7 and 8; padding 8 and 7; count 0 and 8192. -/
theorem witness_ParseHeaderErrors :
    (∃ s : State, s.params.inCap < s.inLen.toNat) ∧
    (∃ s : State, s.inLen.toNat ≤ s.params.inCap ∧ s.inLen.toNat = 3) ∧
    (∃ s : State, s.inLen.toNat ≤ s.params.inCap ∧ s.inLen.toNat = 4 ∧ leValue (s.inBytes.take 4) = 8) ∧
    (∃ s : State, s.inLen.toNat ≤ s.params.inCap ∧ 4 ≤ s.inLen.toNat ∧ s.inLen.toNat = 7 ∧
      leValue (s.inBytes.take 4) = 7) ∧
    (∃ s : State, s.inLen.toNat ≤ s.params.inCap ∧ s.inLen.toNat = 8 ∧ leValue (s.inBytes.take 4) ≤ 7 ∧
      leValue ((s.inBytes.drop 4).take 4) = 0) ∧
    (∃ s : State, s.inLen.toNat ≤ s.params.inCap ∧ s.inLen.toNat = 8 ∧ leValue (s.inBytes.take 4) ≤ 7 ∧
      leValue ((s.inBytes.drop 4).take 4) = 2 * s.params.ceiling) :=
  ⟨⟨withInput ⟨4096, 6, 64, 64, 64⟩ abab, by decide⟩,
    ⟨withInput small [0x06#8, 0x00#8, 0x00#8], by decide, by decide⟩,
    ⟨withInput small [0x08#8, 0x00#8, 0x00#8, 0x00#8], by decide, by decide, by decide +kernel⟩,
    ⟨withInput small [0x07#8, 0x00#8, 0x00#8, 0x00#8, 0x01#8, 0x00#8, 0x00#8], by decide, by decide, by decide,
      by decide +kernel⟩,
    ⟨withInput small [0x06#8, 0x00#8, 0x00#8, 0x00#8, 0x00#8, 0x00#8, 0x00#8, 0x00#8], by decide, by decide,
      by decide +kernel, by decide +kernel⟩,
    ⟨withInput small [0x06#8, 0x00#8, 0x00#8, 0x00#8, 0x00#8, 0x20#8, 0x00#8, 0x00#8], by decide, by decide,
      by decide +kernel, by decide +kernel⟩⟩

/-- The node bytes of a single leaf 65. -/
def leaf41 : List Byte := [0x01#8, 0x41#8, 0x00#8]

/-- The state whose input is a header with these fields and then `rest`, in an instance with that PK_CAP, meets the
hypotheses of the second part of ParseNodeErrors. -/
abbrev PastHeader (pad count : Nat) (rest : List Byte) (pkCap : Nat) : Prop :=
  let s := withInput ⟨4096, 64, 64, 64, pkCap⟩ (leBytes 4 pad ++ leBytes 4 count ++ rest)
  s.inLen.toNat ≤ s.params.inCap ∧ pad ≤ 7 ∧ 1 ≤ count ∧ count ≤ 2 * s.params.ceiling - 1 ∧ count < 2 ^ 32 ∧
    s.inBytes = leBytes 4 pad ++ leBytes 4 count ++ rest ∧ s.draws = 1

/-- The same, with a node loop that ends in a state satisfying `f`. -/
def PastHeaderNodes (pad count : Nat) (rest : List Byte) (pkCap : Nat) (f : ParseState → Bool) : Prop :=
  PastHeader pad count rest pkCap ∧
    ∃ p, parseNodes 4096 (Config.freeFreq 1) count ⟨rest, 1, [], [], []⟩ = .ok p ∧ f p = true

/-- Each clause for one node: no slot, no bytes, tag 2, one symbol byte, symbol 4096, and a symbol seen before. Then, for
PARSE past the header: a bad tag, a tree incomplete at the count, 7 bytes of length field, length 2 for 1 byte, padding
without payload, and PK_CAP + 1 bytes (V-PA-4). -/
theorem witness_ParseNodeErrors :
    ((∃ p : ParseState, p.need = 0) ∧
      (∃ p : ParseState, p.need ≠ 0 ∧ p.rest = []) ∧
      (∃ p : ParseState, p.need ≠ 0 ∧ p.rest = 0x02#8 :: [] ∧ 2 ≤ (0x02#8 : Byte).toNat) ∧
      (∃ p : ParseState, p.need ≠ 0 ∧ p.rest = 0x01#8 :: [0x41#8] ∧ [0x41#8].length < 2) ∧
      (∃ p : ParseState, p.need ≠ 0 ∧ p.rest = 0x01#8 :: 0x00#8 :: 0x10#8 :: [] ∧
        4096 ≤ (0x00#8 : Byte).toNat + 256 * (0x10#8 : Byte).toNat) ∧
      (∃ p : ParseState, p.need ≠ 0 ∧ p.rest = 0x01#8 :: 0xFF#8 :: 0x0F#8 :: [] ∧
        (0xFF#8 : Byte).toNat + 256 * (0x0F#8 : Byte).toNat < 4096 ∧
        (0xFF#8 : Byte).toNat + 256 * (0x0F#8 : Byte).toNat ∈ p.seen)) ∧
    (∃ q : ParseState, PastHeader 0 1 [0x02#8] 64 ∧
      parseNodes 4096 (Config.freeFreq 1) 0 ⟨[0x02#8], 1, [], [], []⟩ = .ok q ∧
      parseNode 4096 (Config.freeFreq 1) q = .error (.corrupt .badTag)) ∧
    PastHeaderNodes 0 1 [0x00#8] 64 (fun p => decide (p.need ≠ 0)) ∧
    PastHeaderNodes 0 1 (leaf41 ++ List.replicate 7 0x00#8) 64 (fun p => decide (p.need = 0 ∧ p.rest.length = 7)) ∧
    PastHeaderNodes 7 1 (leaf41 ++ leBytes 8 2 ++ [0x00#8]) 64
      (fun p => decide (p.need = 0 ∧ 8 ≤ p.rest.length ∧ leValue (p.rest.take 8) ≠ p.rest.length - 8)) ∧
    PastHeaderNodes 1 1 (leaf41 ++ leBytes 8 0) 64
      (fun p => decide (p.need = 0 ∧ leValue (p.rest.take 8) = 0 ∧ p.rest.length = 8)) ∧
    PastHeaderNodes 7 1 (leaf41 ++ leBytes 8 2 ++ [0x00#8, 0x00#8]) 1
      (fun p => decide (p.need = 0 ∧ 8 ≤ p.rest.length ∧ leValue (p.rest.take 8) = p.rest.length - 8 ∧
        1 + 1 = p.rest.length - 8)) :=
  ⟨⟨⟨⟨[], 0, [], [], []⟩, rfl⟩, ⟨⟨[], 1, [], [], []⟩, by decide, rfl⟩,
      ⟨⟨[0x02#8], 1, [], [], []⟩, by decide, rfl, by decide⟩,
      ⟨⟨[0x01#8, 0x41#8], 1, [], [], []⟩, by decide, rfl, by decide⟩,
      ⟨⟨[0x01#8, 0x00#8, 0x10#8], 1, [], [], []⟩, by decide, rfl, by decide⟩,
      ⟨⟨[0x01#8, 0xFF#8, 0x0F#8], 1, [4095], [], []⟩, by decide, rfl, by decide, by decide⟩⟩,
    ⟨_, by decide +kernel, rfl, error_of_eq (by decide +kernel)⟩,
    ⟨by decide +kernel, okIs_spec (by decide +kernel)⟩, ⟨by decide +kernel, okIs_spec (by decide +kernel)⟩,
    ⟨by decide +kernel, okIs_spec (by decide +kernel)⟩, ⟨by decide +kernel, okIs_spec (by decide +kernel)⟩,
    ⟨by decide +kernel, okIs_spec (by decide +kernel)⟩⟩

/-- The longest cut of the last clause's three neighbours: in the last byte of the length field, in the payload, and one
byte past the end. -/
theorem witness_CutOrExtendedArtifactsAreRejected :
    (∃ s : State, s.params.wf = true ∧ s.inLen.toNat ≤ s.params.inCap ∧ HufTreeOk s.params.ceiling tree4 ∧
      artifact tree4 tree4.nodes [0x1B#8] 0 = s.inBytes ++ [0x00#8, 0x1B#8] ∧
      [0x1B#8].length < [0x00#8, 0x1B#8].length) ∧
    (∃ s : State, s.params.wf = true ∧ s.inLen.toNat ≤ s.params.inCap ∧ HufTreeOk s.params.ceiling tree4 ∧
      artifact tree4 tree4.nodes [0x1B#8] 0 = s.inBytes ++ [0x1B#8] ∧ ([0x1B#8] : List Byte) ≠ [] ∧
      [0x1B#8].length ≤ [0x1B#8].length) ∧
    (∃ s : State, s.params.wf = true ∧ s.inLen.toNat ≤ s.params.inCap ∧ HufTreeOk s.params.ceiling tree4 ∧
      s.inBytes = artifact tree4 tree4.nodes [0x1B#8] 0 ++ [0x00#8] ∧ ([0x00#8] : List Byte) ≠ []) :=
  ⟨⟨withInput small (artifact4.take 30), by decide, by decide, tree4_ok, by decide +kernel, by decide⟩,
    ⟨withInput small (artifact4.take 31), by decide, by decide, tree4_ok, by decide +kernel, by decide, by decide⟩,
    ⟨withInput small (artifact4 ++ [0x00#8]), by decide, by decide, tree4_ok, by decide +kernel, by decide⟩⟩

theorem witness_CompressSucceedsOnEveryInputThatFits :
    (∃ s : State, s.params.wf = true ∧ s.inLen ≠ 0#32 ∧ s.inLen.toNat ≤ s.params.inCap ∧
      lzwEncode s.params.ceiling s.params.tokCap s.inBytes = .ok [65, 66, 256, 258] ∧
      readTree (Sparse.ofList (hufBuild s.params.ceiling [65, 66, 256, 258]).arena) s.params.nodeCap
        (hufBuild s.params.ceiling [65, 66, 256, 258]).root = some tree4 ∧
      packTokens (codeTable tree4) s.params.pkCap [65, 66, 256, 258] = .ok ([0x1B#8], 0) ∧
      (artifact tree4 tree4.nodes [0x1B#8] 0).length ≤ s.params.outCap) ∧
    (∃ s : State, s.params.wf = true ∧ s.inLen ≠ 0#32 ∧ s.inLen.toNat ≤ s.params.inCap ∧
      s.inLen.toNat = s.params.tokCap ∧ s.inLen.toNat * s.inLen.toNat ≤ 8 * s.params.pkCap ∧
      15 + 4 * s.inLen.toNat + (s.inLen.toNat * s.inLen.toNat + 7) / 8 = s.params.outCap) :=
  ⟨⟨withInput ⟨4096, 7, 32, 4, 1⟩ abab, by decide, by decide, by decide, ok_of_eq (by decide +kernel), by decide +kernel, ok_of_eq (by decide +kernel), by decide +kernel⟩,
    ⟨withInput ⟨4096, 7, 50, 7, 7⟩ abab, by decide, by decide, by decide, by decide, by decide, by decide⟩⟩

theorem witness_CompositesCheckTheirInputFirst :
    (∃ s : State, s.inLen = 0#32) ∧ (∃ s : State, s.inLen ≠ 0#32 ∧ s.params.inCap + 1 = s.inLen.toNat) :=
  ⟨⟨State.reset, rfl⟩, ⟨withInput ⟨4096, 6, 64, 64, 64⟩ abab, by decide, by decide⟩⟩

/-- A run that goes through every stage of COMPRESS, and one that goes through every stage of DECOMPRESS. -/
theorem witness_CompositesEqualTheirStages :
    (∃ s : State, s.params.wf = true ∧ s.inLen ≠ 0#32 ∧ s.inLen.toNat ≤ s.params.inCap ∧
      (after .lzwEncode s).err = false ∧ (after .hufBuild (after .lzwEncode s)).err = false ∧
      (after .hufCodegen (after .hufBuild (after .lzwEncode s))).err = false ∧
      (after .pack (after .hufCodegen (after .hufBuild (after .lzwEncode s)))).err = false) ∧
    (∃ s : State, s.params.wf = true ∧ s.inLen.toNat ≤ s.params.inCap ∧
      (after .parse s).err = false ∧ (after .unpack (after .parse s)).err = false) ∧
    (∃ s : State, s.params.wf = true ∧ s.inLen.toNat ≤ s.params.inCap ∧ (after .parse s).err = true) :=
  ⟨⟨withInput small abab, by decide, by decide, by decide, by decide +kernel, by decide +kernel, by decide +kernel,
      by decide +kernel⟩,
    ⟨withInput small artifact4, by decide, by decide, by decide +kernel, by decide +kernel⟩,
    ⟨withInput small [], by decide, by decide, by decide +kernel⟩⟩

theorem witness_DecompressDecodesEveryArtifact :
    ∃ s : State, s.params.wf = true ∧ s.inLen.toNat ≤ s.params.inCap ∧ HufTreeOk s.params.ceiling tree4 ∧
      [0x1B#8].length ≤ s.params.pkCap ∧ s.inBytes = artifact tree4 tree4.nodes [0x1B#8] 0 ∧
      unpackTokens s.params.tokCap tree4 [0x1B#8] 0 = .ok [65, 66, 256, 258] ∧
      lzwDecode s.params.ceiling s.params.outCap [65, 66, 256, 258] = .ok abab :=
  ⟨withInput ⟨4096, 32, 7, 4, 1⟩ artifact4, by decide, by decide, tree4_ok, by decide, by decide +kernel, ok_of_eq (by decide +kernel), ok_of_eq (by decide +kernel)⟩

theorem witness_PipelineRoundTrip :
    ∃ s t u : State, s.params.wf = true ∧ s.inLen.toNat ≤ s.params.outCap ∧ exec .compress s = .next t ∧ t.err = false ∧
      u.params = s.params ∧ u.inLen = t.outLen ∧ u.inBytes = t.outBytes ∧ u.inLen.toNat ≤ u.params.inCap :=
  ⟨withInput small abab, _, withInput small artifact4, by decide, by decide, exec_after _ _, by decide +kernel, rfl,
    by decide +kernel, by decide +kernel, by decide⟩

/-- Two states with one input and different leftovers. -/
theorem witness_CompositesDependOnTheInputOnly :
    ∃ s u t v : State, s.params.wf = true ∧ u.params = s.params ∧ u.inLen = s.inLen ∧ u.inBytes = s.inBytes ∧
      s.tokMem ≠ u.tokMem ∧ exec .compress s = .next t ∧ exec .compress u = .next v :=
  ⟨withInput small abab, stPk, _, _, by decide, rfl, rfl, by decide +kernel, by decide +kernel, exec_after _ _,
    exec_after _ _⟩

/-- A state with tokens meets the registers' invariant. -/
theorem stTok_regs : stTok.RegsOk where
  params := by decide
  err := by decide
  code := by decide
  noError := by decide
  running := by decide
  progress := by decide
  outLen := by decide
  tokLen := by decide
  pkLen := by decide
  tokFollows := by decide
  treeFollows := by decide
  pkFollows := by decide
  codesNeedTree := by decide
  padding := by decide

theorem isSome_getElem? {α : Type} (l : List α) (i : Nat) : l[i]?.isSome = decide (i < l.length) := by
  by_cases h : i < l.length <;> simp [h]

/-- It meets the memories' invariant. -/
theorem stTok_mems : stTok.MemOk where
  inWf := by decide
  outWf := by decide
  tokWf := by decide
  pkWf := by decide
  arenaWf := by decide
  codesWf := by decide
  inBound i hi := by
    simp only [stTok, State.putTokens, withInput, Sparse.read_ofList, State.resetOf, small] at hi ⊢
    exact List.getElem?_eq_none (le_trans (by decide) hi)
  outListed i := by simp [stTok, State.putTokens, withInput, State.resetOf]
  tokListed i := by
    simp only [stTok, State.putTokens, Sparse.read_ofList, isSome_getElem?]
    rfl
  pkListed i := by simp [stTok, State.putTokens, withInput, State.resetOf]
  arenaListed i := by simp [stTok, State.putTokens, withInput, State.resetOf]
  codesEmpty _ := rfl

/-- It meets the whole invariant. -/
theorem stTok_inv : stTok.Inv := ⟨stTok_regs, stTok_mems, ⟨fun _ => by decide +kernel, fun h => by cases h⟩⟩

theorem witness_ResultsDoNotDependOnStatusOrReads :
    ∃ s t : State, s.Inv ∧ exec .hufBuild s = .next t := ⟨stTok, _, stTok_inv, exec_after _ _⟩

/-- Two states that differ in TOK_MEM while TOK_V = 0. -/
theorem witness_UnspecifiedBuffersAreNotRead :
    ∃ s u t v : State, u = { s with tokMem := u.tokMem, arena := u.arena, root := u.root, codes := u.codes, pkMem := u.pkMem } ∧
      s.valid.tok = false ∧ u.tokMem ≠ s.tokMem ∧ exec .lzwEncode s = .next t ∧ exec .lzwEncode u = .next v :=
  ⟨withInput small abab, { withInput small abab with tokMem := [(0, 5#16)] }, _, _, rfl, rfl, by decide, exec_after _ _,
    exec_after _ _⟩

/-- Each clause: an IN window write, CTRL without bit 1, STATUS with and without bit 1. -/
theorem witness_WritesWhileBusyAreIgnored :
    (∃ s : State, ∃ addr size v rest, s.busy = true ∧ s.agenda = .host (.write addr size v) :: rest ∧
      AccessAdmitted addr size ∧ addr ≠ 0x004#32 ∧ addr ≠ 0x00C#32) ∧
    (∃ s : State, ∃ size v rest, s.busy = true ∧ s.agenda = .host (.write 0x004#32 size v) :: rest ∧
      AccessAdmitted 0x004#32 size ∧ v.getLsbD 1 = false) ∧
    (∃ s : State, ∃ size v rest, s.busy = true ∧ s.agenda = .host (.write 0x00C#32 size v) :: rest ∧
      AccessAdmitted 0x00C#32 size ∧ v.getLsbD 1 = true) ∧
    (∃ s : State, ∃ size v rest, s.busy = true ∧ s.agenda = .host (.write 0x00C#32 size v) :: rest ∧
      AccessAdmitted 0x00C#32 size ∧ v.getLsbD 1 = false) :=
  ⟨⟨{ stBusy with agenda := [.host (.write 0x10000003#32 1 5#32)] }, 0x10000003#32, 1, _, _, rfl, rfl,
      by simp [AccessAdmitted], by decide, by decide⟩,
    ⟨{ stBusy with agenda := [.host (.write 0x004#32 4 1#32)] }, 4, 1#32, _, rfl, rfl, by simp [AccessAdmitted], by decide⟩,
    ⟨{ stBusy with agenda := [.host (.write 0x00C#32 4 2#32)] }, 4, 2#32, _, rfl, rfl, by simp [AccessAdmitted], by decide⟩,
    ⟨{ stBusy with agenda := [.host (.write 0x00C#32 4 5#32)] }, 4, 5#32, _, rfl, rfl, by simp [AccessAdmitted], by decide⟩⟩

/-- On the last register word, the last reserved word below IN, and the first word of OUT. -/
theorem witness_WritesToReadOnlyLocationsAreIgnored :
    ∀ addr ∈ [0xFFC#32, 0x0FFFFFFC#32, 0x20000000#32], ∃ s : State, ∃ v rest,
      s.agenda = .host (.write addr 4 v) :: rest ∧ AccessAdmitted addr 4 ∧ addr ≠ 0x004#32 ∧ addr ≠ 0x008#32 ∧
      addr ≠ 0x00C#32 ∧ addr ≠ 0x014#32 ∧ (addr.toNat < 0x10000000 ∨ 0x20000000 ≤ addr.toNat) := by
  intro addr h
  refine ⟨{ stTok with agenda := [.host (.write addr 4 0#32)] }, 0#32, [], rfl, ?_⟩
  fin_cases h <;> simp [AccessAdmitted]

/-- A write inside the capacity, and one at the end of the window. -/
theorem witness_InWindowWriteThenRead :
    (∃ s : State, ∃ addr v rest, s.busy = false ∧ s.agenda = .host (.write addr 4 v) :: rest ∧ AccessAdmitted addr 4 ∧
      addr.toNat = 0x10000000 + 60 ∧ 60 + 4 ≤ s.params.inCap) ∧
    (∃ s : State, ∃ addr v rest, s.busy = false ∧ s.agenda = .host (.write addr 4 v) :: rest ∧ AccessAdmitted addr 4 ∧
      addr.toNat = 0x10000000 + 0xFFFFFFC ∧ 0xFFFFFFC + 4 ≤ 0x10000000) :=
  ⟨⟨{ stTok with agenda := [.host (.write 0x1000003C#32 4 5#32)] }, 0x1000003C#32, _, _, rfl, rfl,
      by simp [AccessAdmitted], by decide, by decide⟩,
    ⟨{ stTok with agenda := [.host (.write 0x1FFFFFFC#32 4 5#32)] }, 0x1FFFFFFC#32, _, _, rfl, rfl,
      by simp [AccessAdmitted], by decide, by decide⟩⟩

/-- The first byte beyond each capacity, the first reserved byte, and the first byte above the PK window. -/
theorem witness_BytesBeyondCapacityReadZero :
    64 < 0x10000000 ∧ small.inCap ≤ 64 ∧ small.outCap ≤ 64 ∧ 2 * small.tokCap ≤ 128 ∧ small.pkCap ≤ 64 ∧
    0x1000 ≤ 0x1000 ∧ 0x50000000 ≤ 0x50000000 := by decide

/-- Every register, and the first and last reserved offsets. -/
theorem witness_RegisterReads :
    ∀ addr ∈ [0x000#32, 0x004#32, 0x008#32, 0x00C#32, 0x010#32, 0x014#32, 0x018#32, 0x01C#32, 0x020#32, 0x024#32,
        0x028#32, 0x02C#32, 0x030#32, 0x034#32, 0xFFC#32],
      (∃ s : State, ∃ rest, s.agenda = .host (.read addr 4) :: rest ∧ s.params.wf = true ∧ s.busy = false) ∧
      (∃ s : State, ∃ rest, s.agenda = .host (.read addr 4) :: rest ∧ s.params.wf = true ∧ s.busy = true) ∧
      addr.toNat < 0x1000 ∧ addr.toNat % 4 = 0 := by
  intro addr h
  refine ⟨⟨{ stTok with agenda := [.host (.read addr 4)] }, [], rfl, test_wf_small, rfl⟩,
    ⟨{ stBusy with agenda := [.host (.read addr 4)] }, [], rfl, test_wf_small, rfl⟩, ?_⟩
  fin_cases h <;> simp

/-- The invariant on the registers of a state with bytes in OUT and PK too. -/
theorem stOut_regs : ((stTok.putPacked [0x1B#8] 0).putOut [0x41#8]).RegsOk where
  params := by decide
  err := by decide
  code := by decide
  noError := by decide
  running := by decide
  progress := by decide
  outLen := by decide
  tokLen := by decide
  pkLen := by decide
  tokFollows := by decide
  treeFollows := by decide
  pkFollows := by decide
  codesNeedTree := by decide
  padding := by decide

theorem stOut_mems : ((stTok.putPacked [0x1B#8] 0).putOut [0x41#8]).MemOk where
  inWf := stTok_mems.inWf
  outWf := by decide
  tokWf := stTok_mems.tokWf
  pkWf := by decide
  arenaWf := stTok_mems.arenaWf
  codesWf := stTok_mems.codesWf
  inBound := stTok_mems.inBound
  outListed i := by simp only [State.putOut, Sparse.read_ofList, isSome_getElem?]; rfl
  tokListed := stTok_mems.tokListed
  pkListed i := by simp only [State.putOut, State.putPacked, Sparse.read_ofList, isSome_getElem?]; rfl
  arenaListed := stTok_mems.arenaListed
  codesEmpty := stTok_mems.codesEmpty

/-- Each clause at the last element below its length: OUT and PK bytes in every size, both bytes of the last token
(TOK_LEN = 4), the last token in a 2-byte read and the last two in a 4-byte one. -/
theorem witness_WindowReadsShowTheResults :
    (∀ a ∈ [(0x20000000#32, 1), (0x20000000#32, 2), (0x20000000#32, 4), (0x40000000#32, 1), (0x40000000#32, 2),
        (0x40000000#32, 4), (0x30000006#32, 1), (0x30000007#32, 1), (0x30000006#32, 2), (0x30000004#32, 4)],
      ∃ s : State, ∃ rest, s.params.wf = true ∧ s.RegsOk ∧ s.MemOk ∧ s.busy = false ∧
        s.agenda = .host (.read a.1 a.2) :: rest ∧ AccessAdmitted a.1 a.2 ∧
        0 + 0 < s.outLen.toNat ∧ 0 + 0 < s.pkLen.toNat ∧ 3 < s.tokLen.toNat ∧ 2 * 1 + 1 < s.tokLen.toNat) ∧
    (0x20000000#32 : Word).toNat = 0x20000000 + 0 ∧ (0x40000000#32 : Word).toNat = 0x40000000 + 0 ∧
    (0x30000006#32 : Word).toNat + 0 = 0x30000000 + 2 * 3 ∧ (0x30000007#32 : Word).toNat + 0 = 0x30000000 + 2 * 3 + 1 ∧
    (0x30000006#32 : Word).toNat + 1 = 0x30000000 + 2 * 3 + 1 ∧
    (0x30000004#32 : Word).toNat = 0x30000000 + 4 * 1 := by
  refine ⟨fun a ha => ?_, by decide, by decide, by decide, by decide, by decide, by decide⟩
  refine ⟨{ (stTok.putPacked [0x1B#8] 0).putOut [0x41#8] with agenda := [.host (.read a.1 a.2)] }, [], test_wf_small,
    stOut_regs.withAgenda _, stOut_mems.withAgenda _, rfl, rfl, ?_, show 0 + 0 < 1 by decide, show 0 + 0 < 1 by decide,
    show 3 < 4 by decide, show 2 * 1 + 1 < 4 by decide⟩
  fin_cases ha <;> simp [AccessAdmitted]

theorem witness_CtrlAndStatusWrites :
    (∃ s : State, ∃ v rest, s.agenda = .host (.write 0x004#32 4 v) :: rest ∧ v.getLsbD 1 = false) ∧
    (∃ s : State, ∃ v rest, s.agenda = .host (.write 0x00C#32 4 v) :: rest) ∧
    (∃ s : State, ∃ v rest, s.busy = false ∧ s.agenda = .host (.write 0x014#32 4 v) :: rest) :=
  ⟨⟨{ stTok with agenda := [.host (.write 0x004#32 4 1#32)] }, 1#32, _, rfl, by decide⟩,
    ⟨{ stTok with agenda := [.host (.write 0x00C#32 4 2#32)] }, _, _, rfl⟩,
    ⟨{ stTok with agenda := [.host (.write 0x014#32 4 9#32)] }, _, _, rfl, rfl⟩⟩

theorem witness_ResetsGiveTheResetState :
    (∃ s : State, ∃ rest, s.agenda = .hwReset :: rest ∧ s.busy = true) ∧
    (∃ s : State, ∃ v rest, s.agenda = .host (.write 0x004#32 4 v) :: rest ∧ v.getLsbD 1 = true ∧ s.busy = true) :=
  ⟨⟨{ stBusy with agenda := [.hwReset] }, _, rfl, rfl⟩,
    ⟨{ stBusy with agenda := [.host (.write 0x004#32 4 3#32)] }, 3#32, _, rfl, by decide, rfl⟩⟩

/-- With DONE = 0 and with DONE = 1. -/
theorem witness_WaitSpinsUntilDone :
    (∃ (s : State) (h : HostCpu), s.agenda = [] ∧ h.pc = ([] : List HostLine).length ∧ 1 ∉ hostLabels [] ∧ s.done = false) ∧
    (∃ (s : State) (h : HostCpu), s.agenda = [] ∧ h.pc = ([] : List HostLine).length ∧ 1 ∉ hostLabels [] ∧ s.done = true) :=
  ⟨⟨stTok, HostCpu.start, rfl, rfl, by decide, rfl⟩, ⟨stTok.okCompletion, HostCpu.start, rfl, rfl, by decide, rfl⟩⟩

theorem witness_ResetMeetsTheInvariant : ∃ p : Params, p.wf = true := ⟨small, by decide⟩

theorem witness_StepKeepsTheRegisters : ∃ s t : State, s.RegsOk ∧ step s = .next t := ⟨stTok, stTok, stTok_regs, rfl⟩

/-- A CMD write that is accepted, from a state that is not the reset state. -/
theorem witness_StepKeepsTheInvariant :
    ∃ s t : State, s.Inv ∧ step s = .next t ∧ t.busy = true :=
  ⟨{ stTok with agenda := [.host (.write 0x008#32 4 0x20#32)] }, _, stTok_inv.withAgenda _, rfl, by decide +kernel⟩

end Sys2Proof.Tests
end

section
/-! SUPPORT. What one stage, one command and one event can do, said once, and the inductions that follow: what every
stage keeps every command keeps, and what every event keeps every step keeps. -/

namespace Sys2Proof.Machine

/-! ### Stages and commands -/

/-- Everything a stage that succeeds can have done: one constructor per stage, with what its *requires* check found
(10_state.md R131) and what its function came to. -/
inductive StageDid : State → State → Prop where
  | lzwEncode {s : State} {toks : List Nat}
      (h : lzwEncode s.params.ceiling s.params.tokCap s.inBytes = .ok toks) :
      StageDid s (s.dropTree.dropCodes.dropPacked.putTokens toks)
  | lzwDecode {s : State} {b : List Byte} (h : lzwDecode s.params.ceiling s.params.outCap s.tokens = .ok b) :
      StageDid s (s.putOut b)
  | hufBuild {s : State} (htok : s.valid.tok = true) (hne : s.tokens ≠ []) :
      StageDid s (s.dropCodes.dropPacked.putTree (hufBuild s.params.ceiling s.tokens).arena
        (hufBuild s.params.ceiling s.tokens).root (hufBuild s.params.ceiling s.tokens).count)
  | hufCodegen {s : State} (htree : s.valid.tree = true) : StageDid s (s.putCodes (codeTable s.tree))
  | pack {s : State} {pk : List Byte} {pad : Nat} (h : packTokens s.codes s.params.pkCap s.tokens = .ok (pk, pad)) :
      StageDid s (s.putPacked pk pad)
  | unpack {s : State} {toks : List Nat} (htree : s.valid.tree = true)
      (h : unpackTokens s.params.tokCap s.tree s.pkBytes s.padLen.toNat = .ok toks) : StageDid s (s.putTokens toks)
  | serialize {s : State} {a : List Byte}
      (h : serializeArtifact s.params.outCap s.tree s.nodeCount.toNat s.pkBytes s.padLen.toNat = .ok a) :
      StageDid s (s.putOut a)
  | parse {s : State} {p : Parsed} (h : parseArtifact s.params (Config.freeFreq s.draws) s.inBytes = .ok p) :
      StageDid s ((s.dropTokens.dropCodes.putTree p.arena p.root p.count).putPacked p.pk p.pad)

/-- `f` is a stage: each success of it is one of `StageDid`. -/
def IsStage (f : State → Except CmdError State) : Prop := ∀ s t, f s = .ok t → StageDid s t

theorem isStage_lzwEncode : IsStage stageLzwEncode := by
  intro s t h
  obtain ⟨-, hb⟩ := stage_ok h
  obtain ⟨-, toks, htoks, rfl⟩ := lzwEncodeBody_ok hb
  exact .lzwEncode htoks

theorem isStage_lzwDecode : IsStage stageLzwDecode := by
  intro s t h
  obtain ⟨-, hb⟩ := stage_ok h
  obtain ⟨b, hdec, rfl⟩ := lzwDecodeBody_ok hb
  exact .lzwDecode hdec

theorem isStage_hufBuild : IsStage stageHufBuild := by
  intro s t h
  obtain ⟨hreq, hb⟩ := stage_ok h
  obtain ⟨hne, rfl⟩ := hufBuildBody_ok hb
  exact .hufBuild (((Valid.missing_isNone_iff _ _).1 hreq).1 rfl) hne

theorem isStage_hufCodegen : IsStage stageHufCodegen := by
  intro s t h
  obtain ⟨hreq, hb⟩ := stage_ok h
  cases hb
  exact .hufCodegen (((Valid.missing_isNone_iff _ _).1 hreq).2.1 rfl)

theorem isStage_pack : IsStage stagePack := by
  intro s t h
  obtain ⟨-, hb⟩ := stage_ok h
  obtain ⟨pk, pad, hpack, rfl⟩ := packBody_ok hb
  exact .pack hpack

theorem isStage_unpack : IsStage stageUnpack := by
  intro s t h
  obtain ⟨hreq, hb⟩ := stage_ok h
  obtain ⟨toks, htoks, rfl⟩ := unpackBody_ok hb
  exact .unpack (((Valid.missing_isNone_iff _ _).1 hreq).2.1 rfl) htoks

theorem isStage_serialize : IsStage stageSerialize := by
  intro s t h
  obtain ⟨-, hb⟩ := stage_ok h
  obtain ⟨a, ha, rfl⟩ := serializeBody_ok hb
  exact .serialize ha

theorem isStage_parse : IsStage stageParse := by
  intro s t h
  obtain ⟨-, hb⟩ := stage_ok h
  obtain ⟨-, p, hp, rfl⟩ := parseBody_ok hb
  exact .parse hp

section Keeps

variable {P : State → Prop} (hstage : ∀ {s t : State}, StageDid s t → P s → P t)
include hstage

/-- What every stage keeps, a sequence of stages keeps. -/
theorem runStages_keeps {fs : List (State → Except CmdError State)} (hfs : ∀ f ∈ fs, IsStage f) {s t : State}
    (h : runStages fs s = .ok t) (hs : P s) : P t := by
  induction fs generalizing s with
  | nil => cases h; exact hs
  | cons f fs ih =>
    obtain ⟨u, hf, hrest⟩ := runStages_ok h
    exact ih (fun g hg => hfs g (List.mem_cons_of_mem f hg)) hrest
      (hstage (hfs f List.mem_cons_self s u hf) hs)

/-- What every stage keeps, COMPRESS keeps. -/
theorem runCompress_keeps {s t : State} (h : runCompress s = .ok t) (hs : P s) : P t := by
  unfold runCompress at h
  split at h
  · cases h
  · split at h
    · cases h
    · refine runStages_keeps hstage ?_ h hs
      simp [isStage_lzwEncode, isStage_hufBuild, isStage_hufCodegen, isStage_pack, isStage_serialize]

/-- What every stage keeps, DECOMPRESS keeps. -/
theorem runDecompress_keeps {s t : State} (h : runDecompress s = .ok t) (hs : P s) : P t := by
  unfold runDecompress at h
  split at h
  · cases h
  · refine runStages_keeps hstage ?_ h hs
    simp [isStage_parse, isStage_unpack, isStage_lzwDecode]

/-- What every stage keeps, every command keeps up to its completion. -/
theorem run_keeps {i : Instr} {s t : State} (h : run i s = .ok t) (hs : P s) : P t := by
  cases i with
  | compress => exact runCompress_keeps hstage h hs
  | decompress => exact runDecompress_keeps hstage h hs
  | lzwEncode => exact hstage (isStage_lzwEncode s t h) hs
  | lzwDecode => exact hstage (isStage_lzwDecode s t h) hs
  | hufBuild => exact hstage (isStage_hufBuild s t h) hs
  | hufCodegen => exact hstage (isStage_hufCodegen s t h) hs
  | pack => exact hstage (isStage_pack s t h) hs
  | unpack => exact hstage (isStage_unpack s t h) hs
  | serialize => exact hstage (isStage_serialize s t h) hs
  | parse => exact hstage (isStage_parse s t h) hs

end Keeps

/-! ### Events and steps -/

/-- Everything one event of the agenda can do to the state it is taken in. -/
inductive EventDid : State → State → Prop where
  | nothing {s : State} : EventDid s s
  | read {s : State} (r : Word) : EventDid s { s with rdata := r, draws := s.draws + 1 }
  | storeIn {s : State} (a : Nat) (v : Word) (n : Nat) : EventDid s (bytesWrite s a v n)
  | setIrqEn {s : State} (b : Bool) : EventDid s { s with irqEn := b }
  | setInLen {s : State} (v : Word) : EventDid s { s with inLen := v }
  | ack {s : State} : EventDid s s.ack
  | badCommand {s : State} (hidle : s.busy = false) (op : Byte) : EventDid s (s.badCommand op)
  | accept {s : State} (i : Instr) : EventDid s (s.accept i)
  | success {s t : State} {i : Instr} (h : run i s = .ok t) : EventDid s t.okCompletion
  | failure {s : State} (e : CmdError) : EventDid s (s.errorCompletion e)
  | reset {s : State} : EventDid s s.resetCore

theorem writeCtrl_did (s : State) (v : Word) : EventDid s (writeCtrl s v) := by
  unfold writeCtrl
  split
  · exact .reset
  · exact .setIrqEn _

theorem writeCmd_did (s : State) (v : Word) : EventDid s (writeCmd s v) := by
  obtain ⟨-, h⟩ | ⟨op, hidle, -, h⟩ | ⟨i, -, -, h⟩ := writeCmd_cases s v <;> rw [h]
  · exact .nothing
  · exact .badCommand hidle op
  · exact .accept i

theorem writeStatus_did (s : State) (v : Word) : EventDid s (writeStatus s v) := by
  unfold writeStatus
  split
  · exact .ack
  · exact .nothing

theorem writeInLen_did (s : State) (v : Word) : EventDid s (writeInLen s v) := by
  unfold writeInLen
  split
  · exact .nothing
  · exact .setInLen v

theorem regWrite_did (s : State) (off : Nat) (v : Word) : EventDid s (regWrite s off v) := by
  obtain ⟨-, h⟩ | ⟨-, h⟩ | ⟨-, h⟩ | ⟨-, h⟩ | ⟨-, -, -, -, h⟩ := regWrite_cases s off v <;> rw [h]
  · exact writeCtrl_did s v
  · exact writeCmd_did s v
  · exact writeStatus_did s v
  · exact writeInLen_did s v
  · exact .nothing

theorem busAccess_did {s t : State} {a : Access} (h : busAccess s a = .next t) : EventDid s t := by
  cases a with
  | read addr size =>
    obtain ⟨-, rfl⟩ := busRead_next h
    exact .read _
  | write addr size v =>
    obtain ⟨-, ⟨off, -, rfl⟩ | ⟨-, rfl⟩⟩ := busWrite_next h
    · exact regWrite_did s off v
    · exact .storeIn _ v size

theorem complete_run_did (i : Instr) (s : State) : EventDid s (s.complete (run i s)) := by
  obtain ⟨t, hr, h⟩ | ⟨e, -, h⟩ := s.complete_cases (run i s) <;> rw [h]
  · exact .success hr
  · exact .failure e

/-- A step takes an event off the agenda, and then does what that event does. -/
theorem step_did {s t : State} (h : step s = .next t) : ∃ rest, EventDid { s with agenda := rest } t := by
  obtain ⟨u, hu, hturn⟩ | ⟨a, rest, -, hbus⟩ | ⟨rest, -, rfl⟩ := step_cases h
  · have hut : EventDid u t := by
      obtain ⟨-, rfl⟩ | ⟨i, -, rfl⟩ := hturn
      · exact .nothing
      · exact complete_run_did i u
    obtain ⟨-, rfl⟩ | ⟨rest, -, rfl⟩ := hu
    · exact ⟨u.agenda, hut⟩
    · exact ⟨rest, hut⟩
  · exact ⟨rest, busAccess_did hbus⟩
  · exact ⟨rest, .reset⟩

/-- What does not depend on the agenda and every event keeps, every step keeps. -/
theorem step_keeps {P : State → Prop} (hagenda : ∀ (s : State) (a : List Event), P s → P { s with agenda := a })
    (hevent : ∀ {s t : State}, EventDid s t → P s → P t) {s t : State} (hs : P s) (h : step s = .next t) : P t := by
  obtain ⟨rest, hdid⟩ := step_did h
  exact hevent hdid (hagenda s rest hs)

end Sys2Proof.Machine
end

section
/-! SUPPORT. The host's side of the state: no command changes it. -/

namespace Sys2Proof.Machine

/-- The part of the state that no command may write, IN_MEM included as it is held. -/
def State.hostSide (s : State) : Params × List Event × Word × Bool × BitVec 32 × Memory × Nat :=
  (s.params, s.agenda, s.rdata, s.irqEn, s.inLen, s.inMem, s.inGen)

theorem StageDid.hostSide_eq {s t : State} (h : StageDid s t) : t.hostSide = s.hostSide := by cases h <;> rfl

/-- A command leaves the host's side alone, whether it succeeds or fails. -/
theorem complete_run_hostSide (i : Instr) (s : State) : (s.complete (run i s)).hostSide = s.hostSide := by
  obtain ⟨t, hr, h⟩ | ⟨e, -, h⟩ := s.complete_cases (run i s) <;> rw [h]
  · exact run_keeps (P := fun u => u.hostSide = s.hostSide) (fun hd hs => hd.hostSide_eq.trans hs) (t := t) hr rfl
  · rfl

/-- Settles O11: a completion leaves the host's side alone, and every command is a completion. -/
theorem commandsLeaveTheInputAlone : Obligations.CommandsLeaveTheInputAlone := by
  intro i s t h
  obtain rfl := (exec_next_iff i s t).1 h
  have hside := complete_run_hostSide i s
  simp only [State.hostSide, Prod.mk.injEq] at hside
  obtain ⟨hparams, hagenda, hrdata, hirq, hlen, hmem, hgen⟩ := hside
  exact ⟨⟨hparams, hagenda, hrdata, hirq, hlen, fun j => by simp only [State.inByte, hmem, hgen]⟩,
    fun j => by rw [hmem]⟩

end Sys2Proof.Machine
end

section
/-! SUPPORT. Accesses to the register page: what a step does that takes one, and the numbers the registers read as. -/

namespace Sys2Proof.Machine

theorem admitted_regPage {addr : Word} (hpage : addr.toNat < 0x1000) (halign : addr.toNat % 4 = 0) :
    admitted addr 4 = true := by
  simp [admitted, regionOf_regPage hpage, halign]

/-- A step that takes an aligned 4-byte read of the register page. -/
theorem step_regRead {s : State} {addr : Word} {rest : List Event} (h : s.agenda = .host (.read addr 4) :: rest)
    (hpage : addr.toNat < 0x1000) (halign : addr.toNat % 4 = 0) :
    step s = .next { s with agenda := rest, rdata := regRead { s with agenda := rest } addr.toNat,
                            draws := s.draws + 1 } := by
  simp [step, h, busAccess, busRead, admitted_regPage hpage halign, readValue, regionOf_regPage hpage]

/-- A step that takes an aligned 4-byte write of the register page. -/
theorem step_regWrite {s : State} {addr v : Word} {rest : List Event} (h : s.agenda = .host (.write addr 4 v) :: rest)
    (hpage : addr.toNat < 0x1000) (halign : addr.toNat % 4 = 0) :
    step s = .next (regWrite { s with agenda := rest } addr.toNat v) := by
  simp [step, h, busAccess, busWrite, admitted_regPage hpage halign, regionOf_regPage hpage]

/-- Fields side by side: the upper one counts in units of the lower one's range. -/
theorem toNat_append_eq_add {m n : Nat} (x : BitVec m) (y : BitVec n) :
    (x ++ y).toNat = x.toNat * 2 ^ n + y.toNat := by
  rw [BitVec.toNat_append, ← Nat.shiftLeft_add_eq_or_of_lt y.isLt, Nat.shiftLeft_eq]

theorem toNat_cfgWord {s : State} (h : s.params.wf = true) : s.cfgWord.toNat = s.params.ceiling := by
  simp only [Params.wf, decide_eq_true_eq] at h
  obtain ⟨-, hceil, -⟩ := h
  simp only [State.cfgWord, BitVec.toNat_setWidth, BitVec.toNat_ofNat]
  omega

theorem toNat_ctrlWord (s : State) : s.ctrlWord.toNat = if s.irqEn then 1 else 0 := by
  unfold State.ctrlWord
  cases s.irqEn <;> rfl

theorem toNat_statusWord (s : State) :
    s.statusWord.toNat = (if s.busy then 1 else 0) + (if s.done then 2 else 0) + (if s.err then 4 else 0) := by
  unfold State.statusWord
  cases s.busy <;> cases s.done <;> cases s.err <;> rfl

theorem ErrorReg.toNat_word (e : ErrorReg) :
    e.word.toNat = e.code.toNat + 256 * e.detail.toNat + 65536 * e.op.toNat := by
  simp only [ErrorReg.word, toNat_append_eq_add, BitVec.toNat_ofNat]
  omega

theorem Valid.toNat_word (v : Valid) :
    v.word.toNat = (if v.tok then 1 else 0) + (if v.tree then 2 else 0) + (if v.codes then 4 else 0) +
      (if v.pk then 8 else 0) := by
  obtain ⟨tok, tree, codes, pk⟩ := v
  cases tok <;> cases tree <;> cases codes <;> cases pk <;> rfl

/-- Beyond PROGRESS the register page is reserved and reads 0 (10_state.md R116). -/
theorem regRead_reserved (s : State) {off : Nat} (h : 0x034 ≤ off) : regRead s off = 0#32 := by
  unfold regRead
  repeat rw [if_neg (by omega)]

section Idle

variable {s : State} (h : s.busy = false)
include h

theorem regRead_outLen : regRead s 0x018 = s.outLen := by simp [regRead, h]

theorem regRead_tokLen : regRead s 0x01C = s.tokLen := by simp [regRead, h]

theorem regRead_pkLen : regRead s 0x020 = s.pkLen := by simp [regRead, h]

theorem toNat_regRead_padLen : (regRead s 0x024).toNat = s.padLen.toNat := by
  have hread : regRead s 0x024 = s.padLen.setWidth 32 := by simp [regRead, h]
  rw [hread, BitVec.toNat_setWidth_of_le (by decide)]

theorem regRead_valid : regRead s 0x028 = s.valid.word := by simp [regRead, h]

theorem toNat_regRead_nodeCount : (regRead s 0x02C).toNat = s.nodeCount.toNat := by
  have hread : regRead s 0x02C = s.nodeCount.setWidth 32 := by simp [regRead, h]
  rw [hread, BitVec.toNat_setWidth_of_le (by decide)]

theorem toNat_regRead_progress : (regRead s 0x030).toNat = s.progress.toNat := by
  have hread : regRead s 0x030 = s.progress.setWidth 32 := by simp [regRead, h]
  rw [hread, BitVec.toNat_setWidth_of_le (by decide)]

end Idle

/-- While BUSY, PROGRESS reads as a percentage (44_pipeline.md R820). -/
theorem toNat_regRead_progress_le {s : State} (h : s.busy = true) : (regRead s 0x030).toNat ≤ 100 := by
  have hread : regRead s 0x030 = BitVec.ofNat 32 (Config.freePercent s.draws).val := by simp [regRead, h]
  have hle := (Config.freePercent s.draws).isLt
  rw [hread, BitVec.toNat_ofNat]
  omega

/-- Settles O53: a step that takes the read returns `regRead`, register by register. -/
theorem registerReads : Obligations.RegisterReads := by
  intro s addr rest hag hpage halign
  refine ⟨_, step_regRead hag hpage halign, ?cfg, ?ctrl, ?cmd, ?status, ?error, ?inLen, fun hidle => ?idle,
    fun hbusy => ?busy, fun hres => regRead_reserved _ hres⟩
  case cfg => rintro rfl hwf; exact toNat_cfgWord hwf
  case ctrl => rintro rfl; exact toNat_ctrlWord s
  case cmd => rintro rfl; rfl
  case status => rintro rfl; exact toNat_statusWord s
  case error => rintro rfl; exact s.error.toNat_word
  case inLen => rintro rfl; rfl
  case idle =>
    refine ⟨?outLen, ?tokLen, ?pkLen, ?padLen, ?valid, ?nodeCount, ?progress⟩ <;> rintro rfl
    case outLen => exact regRead_outLen hidle
    case tokLen => exact regRead_tokLen hidle
    case pkLen => exact regRead_pkLen hidle
    case padLen => exact toNat_regRead_padLen hidle
    case valid => exact (congrArg BitVec.toNat (regRead_valid hidle)).trans s.valid.toNat_word
    case nodeCount => exact toNat_regRead_nodeCount hidle
    case progress => exact toNat_regRead_progress hidle
  case busy => rintro rfl; exact toNat_regRead_progress_le hbusy

/-- A CTRL write with bit 1 is the reset, and one without it stores bit 0 (10_state.md R104). -/
theorem writeCtrl_of_softReset (s : State) {v : Word} (h : v.getLsbD 1 = true) : writeCtrl s v = s.resetCore := if_pos h

theorem writeCtrl_of_not_softReset (s : State) {v : Word} (h : v.getLsbD 1 = false) :
    writeCtrl s v = { s with irqEn := v.getLsbD 0 } := if_neg (Bool.eq_false_iff.1 h)

/-- A STATUS write clears DONE by its bit 1 and changes nothing else (10_state.md R106). -/
theorem writeStatus_eq (s : State) (v : Word) : writeStatus s v = { s with done := s.done && !v.getLsbD 1 } := by
  unfold writeStatus State.ack
  cases v.getLsbD 1 <;> simp

theorem writeInLen_of_idle {s : State} (v : Word) (h : s.busy = false) : writeInLen s v = { s with inLen := v } :=
  if_neg (Bool.eq_false_iff.1 h)

/-- Settles O55: a step that takes the write is the register's own write. -/
theorem ctrlAndStatusWrites : Obligations.CtrlAndStatusWrites := by
  intro s v rest
  refine ⟨fun hag hbit => ?ctrl, fun hag => ?status, fun hidle hag => ?inLen⟩
  all_goals rw [step_regWrite hag (by decide) (by decide)]
  case ctrl => exact congrArg _ (writeCtrl_of_not_softReset _ hbit)
  case status => exact congrArg _ (writeStatus_eq _ v)
  case inLen => exact congrArg _ (writeInLen_of_idle v hidle)

/-- Settles O56: both resets step to `resetCore`, whose fields are the reset values. -/
theorem resetsGiveTheResetState : Obligations.ResetsGiveTheResetState := by
  intro s v rest h
  refine ⟨State.resetCore { s with agenda := rest }, ?_, rfl, rfl, rfl, rfl, rfl, rfl, rfl, rfl, rfl, rfl, rfl, rfl,
    rfl, rfl, rfl, rfl, fun i => ⟨rfl, rfl, rfl, rfl, rfl, rfl⟩⟩
  obtain hpulse | ⟨hsoft, hbit⟩ := h
  · simp [step, hpulse]
  · rw [step_regWrite hsoft (by decide) (by decide)]
    exact congrArg _ (writeCtrl_of_softReset _ hbit)

end Sys2Proof.Machine
end

section
/-! SUPPORT. What the codec's functions produce: how many elements, and from which range. -/

namespace Sys2Proof.Machine

/-! ### The LZW encoder -/

/-- What holds of the encoder's state between two bytes: the dictionary holds every single byte and at most CEILING
strings, the running string `w` is one of them, and the tokens are below CEILING and at most TOK_CAP many
(40_lzw.md R401-R410). -/
structure EncState.Ok (ceiling tokCap : Nat) (e : EncState) : Prop where
  seed : ∀ c : Byte, [c] ∈ e.dict
  dictLen : e.dict.length ≤ ceiling
  wMem : e.w ≠ [] → e.w ∈ e.dict
  outLt : ∀ x ∈ e.out, x < ceiling
  outLen : e.out.length ≤ tokCap

section Encoder

variable {ceiling tokCap : Nat}

theorem dictInsertOrReset_length_le (hc : 256 ≤ ceiling) {dict : List (List Byte)} (wc : List Byte) :
    (dictInsertOrReset ceiling dict wc).length ≤ ceiling := by
  by_cases h : dict.length < ceiling
  · rw [dictInsertOrReset_of_lt wc h, List.length_append]; exact h
  · rw [dictInsertOrReset_of_le wc (Nat.le_of_not_lt h), dictSeed_length]; exact hc

theorem mem_dictInsertOrReset_of_seed {dict : List (List Byte)} (hseed : ∀ c : Byte, [c] ∈ dict) (wc : List Byte)
    (c : Byte) : [c] ∈ dictInsertOrReset ceiling dict wc := by
  by_cases h : dict.length < ceiling
  · rw [dictInsertOrReset_of_lt wc h]; exact List.mem_append_left _ (hseed c)
  · rw [dictInsertOrReset_of_le wc (Nat.le_of_not_lt h)]; exact mem_dictSeed c

theorem EncState.ok_init (hc : 256 ≤ ceiling) : EncState.init.Ok ceiling tokCap where
  seed := mem_dictSeed
  dictLen := by simpa [EncState.init] using hc
  wMem h := absurd rfl h
  outLt x hx := nomatch hx
  outLen := Nat.zero_le _

theorem EncState.Ok.codeEmit {e f : EncState} (he : e.Ok ceiling tokCap) (h : codeEmit tokCap e = .ok f) :
    f.Ok ceiling tokCap := by
  obtain ⟨-, rfl⟩ | ⟨hw, hroom, rfl⟩ := codeEmit_ok h
  · exact he
  · refine { he with outLt := fun x hx => ?_, outLen := ?_ }
    · rcases List.mem_append.1 hx with hx | hx
      · exact he.outLt x hx
      · obtain rfl := List.mem_singleton.1 hx
        exact (List.idxOf_lt_length_of_mem (he.wMem hw)).trans_le he.dictLen
    · have := he.outLen
      simp only [List.length_append, List.length_singleton]
      omega

theorem EncState.Ok.encodeByte (hc : 256 ≤ ceiling) {e f : EncState} {c : Byte} (he : e.Ok ceiling tokCap)
    (h : encodeByte ceiling tokCap e c = .ok f) : f.Ok ceiling tokCap := by
  obtain ⟨hit, rfl⟩ | ⟨-, g, hg, rfl⟩ := encodeByte_ok h
  · exact { he with wMem := fun _ => hit }
  · have hgok := he.codeEmit hg
    have hseed := mem_dictInsertOrReset_of_seed (ceiling := ceiling) hgok.seed (e.w ++ [c])
    exact ⟨hseed, dictInsertOrReset_length_le hc _, fun _ => hseed c, hgok.outLt, hgok.outLen⟩

theorem EncState.Ok.encodeBytes (hc : 256 ≤ ceiling) {b : List Byte} {e f : EncState} (he : e.Ok ceiling tokCap)
    (h : encodeBytes ceiling tokCap e b = .ok f) : f.Ok ceiling tokCap := by
  induction b generalizing e with
  | nil => cases h; exact he
  | cons c cs ih =>
    obtain ⟨g, hg, hrest⟩ := encodeBytes_cons_ok h
    exact ih (he.encodeByte hc hg) hrest

/-- The encoder's tokens are below CEILING and at most TOK_CAP many (40_lzw.md R407, R410). -/
theorem lzwEncode_bounds (hc : 256 ≤ ceiling) {b : List Byte} {toks : List Nat}
    (h : lzwEncode ceiling tokCap b = .ok toks) : (∀ x ∈ toks, x < ceiling) ∧ toks.length ≤ tokCap := by
  unfold lzwEncode at h
  split at h
  · cases h
  next e he =>
    split at h
    · cases h
    next f hf =>
      cases h
      have hok := ((EncState.ok_init hc).encodeBytes hc he).codeEmit hf
      exact ⟨hok.outLt, hok.outLen⟩

end Encoder

/-! ### The LZW decoder -/

theorem decodeTokens_length_le {ceiling outCap : Nat} {toks : List Nat} {d d' : DecState}
    (hd : d.out.length ≤ outCap) (h : decodeTokens ceiling outCap d toks = .ok d') : d'.out.length ≤ outCap := by
  induction toks generalizing d with
  | nil => cases h; exact hd
  | cons k ks ih =>
    obtain ⟨f, hf, hrest⟩ := decodeTokens_cons_ok h
    obtain ⟨entry, -, hroom, rfl⟩ := decodeToken_ok hf
    exact ih (by simpa using hroom) hrest

/-- The decoder's bytes are at most OUT_CAP many (40_lzw.md R437). -/
theorem lzwDecode_length_le {ceiling outCap : Nat} {toks : List Nat} {b : List Byte}
    (h : lzwDecode ceiling outCap toks = .ok b) : b.length ≤ outCap := by
  obtain ⟨t0, ts, d, -, -, hcap, hd, rfl⟩ := lzwDecode_ok h
  exact decodeTokens_length_le (by simpa using hcap) hd

/-! ### The bit packer -/

theorem padBits_length_mod (b : Bits) : (padBits b).length % 8 = 0 := by
  simp only [padBits, padFor, List.length_append, List.length_replicate]
  omega

theorem bytesOfBits_length (b : Bits) : (bytesOfBits b).length = b.length / 8 := by
  induction b using bytesOfBits.induct with
  | case1 b7 b6 b5 b4 b3 b2 b1 b0 rest ih => simp only [bytesOfBits, List.length_cons, ih]; omega
  | case2 b hshort =>
    rw [bytesOfBits.eq_2 b hshort]
    match b, hshort with
    | [], _ | [_], _ | [_, _], _ | [_, _, _], _ | [_, _, _, _], _ | [_, _, _, _, _], _ | [_, _, _, _, _, _], _
    | [_, _, _, _, _, _, _], _ => simp
    | _ :: _ :: _ :: _ :: _ :: _ :: _ :: _ :: _, hshort => exact absurd rfl (hshort _ _ _ _ _ _ _ _ _)

/-- The packer's bytes are at most PK_CAP many, and without a byte there is no padding (42_bitpack.md R604, R605). -/
theorem packTokens_bounds {codes : Sparse Bits} {pkCap pad : Nat} {t : List Nat} {pk : List Byte}
    (h : packTokens codes pkCap t = .ok (pk, pad)) : pk.length ≤ pkCap ∧ (pk = [] → pad = 0) := by
  obtain ⟨b, -, hcap, rfl, rfl⟩ := packTokens_ok h
  refine ⟨(bytesOfBits_length _).trans_le hcap, fun hnil => ?_⟩
  have hlen : (padBits b).length / 8 = 0 := by rw [← bytesOfBits_length, hnil, List.length_nil]
  have hmod := padBits_length_mod b
  simp only [padBits, padFor, List.length_append, List.length_replicate] at hlen hmod ⊢
  omega

/-! ### The bit unpacker -/

theorem child_symbols_subset {l r child : HufTree} {b : Bool} (h : (if b then r else l) = child) :
    child.symbols ⊆ (HufTree.node l r).symbols := by
  subst h
  cases b
  · exact List.subset_append_left _ _
  · exact List.subset_append_right _ _

/-- Tokens of the tree with `symbols`, at most TOK_CAP many. -/
def TokensFit (tokCap : Nat) (symbols out : List Nat) : Prop := out ⊆ symbols ∧ out.length ≤ tokCap

theorem TokensFit.emitToken {tokCap sym : Nat} {symbols out out' : List Nat} (hout : TokensFit tokCap symbols out)
    (hsym : sym ∈ symbols) (h : emitToken tokCap out sym = .ok out') : TokensFit tokCap symbols out' := by
  obtain ⟨hroom, rfl⟩ := emitToken_ok h
  obtain ⟨hsub, hlen⟩ := hout
  refine ⟨List.append_subset.2 ⟨hsub, by simpa using hsym⟩, ?_⟩
  simp only [List.length_append, List.length_singleton]
  omega

/-- The walk emits leaf symbols of its tree, at most TOK_CAP many (42_bitpack.md R622-R624). -/
theorem walkBits_tokensFit {tokCap : Nat} {root cur : HufTree} {out toks : List Nat} {b : Bits}
    (hcur : cur.symbols ⊆ root.symbols) (hout : TokensFit tokCap root.symbols out)
    (h : walkBits tokCap root cur out b = .ok toks) : TokensFit tokCap root.symbols toks := by
  fun_induction walkBits tokCap root cur out b with
  | case1 out => cases h; exact hout
  | case2 | case3 | case4 | case6 => cases h
  | case5 sym out b bs _ out' hemit ih =>
    exact ih (List.Subset.refl _) (hout.emitToken (hcur List.mem_cons_self) hemit) h
  | case7 l r out b bs sym hchild out' hemit ih =>
    have hsub := List.Subset.trans (child_symbols_subset hchild) hcur
    exact ih (List.Subset.refl _) (hout.emitToken (hsub List.mem_cons_self) hemit) h
  | case8 l r out b bs l' r' hchild ih =>
    have hsub := List.Subset.trans (child_symbols_subset hchild) hcur
    exact ih hsub hout h

theorem unpackTokens_tokensFit {tokCap pad : Nat} {tree : HufTree} {pk : List Byte} {toks : List Nat}
    (h : unpackTokens tokCap tree pk pad = .ok toks) : TokensFit tokCap tree.symbols toks :=
  walkBits_tokensFit (List.Subset.refl _) ⟨List.nil_subset _, Nat.zero_le _⟩ (unpackTokens_ok h).1

/-! ### The parser -/

/-- The parser's packed bytes are at most PK_CAP many, and without a byte there is no padding (43_container.md R719). -/
theorem parseArtifact_pk_bounds {params : Params} {freq : Nat → BitVec 32} {a : List Byte} {p : Parsed}
    (h : parseArtifact params freq a = .ok p) : p.pk.length ≤ params.pkCap ∧ (p.pk = [] → p.pad = 0) := by
  obtain ⟨_, _, _, -, -, -, -, -, -, -, hpayload, -, -⟩ := parseArtifact_ok h
  obtain ⟨_, -, -, hpad, hcap⟩ := parsePayload_ok hpayload
  exact ⟨hcap, hpad⟩

end Sys2Proof.Machine
end

section
/-! SUPPORT. The registers: their agreement falls into what belongs to the life of a command and what belongs to the
destinations of commands, and each event keeps both. -/

namespace Sys2Proof.Machine

/-! ### The two halves of `RegsOk` -/

/-- STATUS, ERROR and PROGRESS, and the engine they speak of. -/
def State.life (s : State) : Engine × Bool × Bool × ErrorReg × BitVec 7 :=
  (s.engine, s.done, s.err, s.error, s.progress)

/-- The part of `RegsOk` that is about `life`. -/
structure State.LifeOk (s : State) : Prop where
  err : s.err = decide (s.error.code ≠ 0#8)
  code : s.error.code.toNat ≤ 5
  noError : s.error.code = 0#8 → s.error = ErrorReg.none
  running : s.busy = true → s.done = false ∧ s.error = ErrorReg.none ∧ s.progress = 0#7
  progress : s.progress.toNat ≤ 100

/-- The parameters, the destinations of commands and what the registers say of them: everything but the life of a
command, IN_MEM and the host's own side. -/
structure Data where
  params : Params
  outLen : BitVec 32
  tokLen : BitVec 32
  pkLen : BitVec 32
  padLen : BitVec 3
  valid : Valid
  nodeCount : BitVec 17
  outMem : Memory
  tokMem : Sparse (BitVec 16)
  pkMem : Memory
  arena : Sparse Node
  root : Nat
  codes : Sparse Bits

def State.data (s : State) : Data :=
  ⟨s.params, s.outLen, s.tokLen, s.pkLen, s.padLen, s.valid, s.nodeCount, s.outMem, s.tokMem, s.pkMem, s.arena, s.root,
    s.codes⟩

/-- The part of `RegsOk` that is about `data`. -/
structure State.DestOk (s : State) : Prop where
  params : s.params.wf = true
  outLen : s.outLen.toNat ≤ s.params.outCap
  tokLen : s.tokLen.toNat ≤ s.params.tokCap
  pkLen : s.pkLen.toNat ≤ s.params.pkCap
  tokFollows : s.valid.tok = false → s.tokLen = 0#32
  treeFollows : s.valid.tree = false → s.nodeCount = 0#17
  pkFollows : s.valid.pk = false → s.pkLen = 0#32 ∧ s.padLen = 0#3
  codesNeedTree : s.valid.codes = true → s.valid.tree = true
  padding : s.pkLen = 0#32 → s.padLen = 0#3

theorem State.regsOk_iff (s : State) : s.RegsOk ↔ s.LifeOk ∧ s.DestOk :=
  ⟨fun h => ⟨⟨h.err, h.code, h.noError, h.running, h.progress⟩, ⟨h.params, h.outLen, h.tokLen, h.pkLen, h.tokFollows,
      h.treeFollows, h.pkFollows, h.codesNeedTree, h.padding⟩⟩,
    fun ⟨hl, hd⟩ => ⟨hd.params, hl.err, hl.code, hl.noError, hl.running, hl.progress, hd.outLen, hd.tokLen, hd.pkLen,
      hd.tokFollows, hd.treeFollows, hd.pkFollows, hd.codesNeedTree, hd.padding⟩⟩

variable {s t : State}

theorem State.LifeOk.of_life_eq (h : s.LifeOk) (heq : t.life = s.life) : t.LifeOk := by
  cases s
  cases t
  simp only [State.life, Prod.mk.injEq] at heq
  obtain ⟨rfl, rfl, rfl, rfl, rfl⟩ := heq
  exact ⟨h.err, h.code, h.noError, h.running, h.progress⟩

theorem State.DestOk.of_data_eq (h : s.DestOk) (heq : t.data = s.data) : t.DestOk := by
  cases s
  cases t
  simp only [State.data, Data.mk.injEq] at heq
  obtain ⟨rfl, rfl, rfl, rfl, rfl, rfl, rfl, -, -, -, -, -, -⟩ := heq
  exact ⟨h.params, h.outLen, h.tokLen, h.pkLen, h.tokFollows, h.treeFollows, h.pkFollows, h.codesNeedTree, h.padding⟩

/-! ### The life of a command -/

/-- No cause of an error has the code of NONE, and none has a code above 5 (30_encoding.md R320). -/
theorem Cause.code_bounds (c : Cause) : c.code ≠ 0#8 ∧ c.code.toNat ≤ 5 := by
  cases c <;> exact ⟨by simp [Cause.code], by simp [Cause.code]⟩

theorem lifeOk_of_noError (hidle : s.engine = .idle ∨ s.done = false ∧ s.progress = 0#7) (herr : s.err = false)
    (herror : s.error = ErrorReg.none) (hprog : s.progress.toNat ≤ 100) : s.LifeOk where
  err := by rw [herr, herror]; rfl
  code := by rw [herror]; exact Nat.zero_le _
  noError _ := herror
  running hbusy := by
    obtain hidle | ⟨hdone, hzero⟩ := hidle
    · rw [State.busy_of_idle hidle] at hbusy; cases hbusy
    · exact ⟨hdone, herror, hzero⟩
  progress := hprog

/-- A state with an error recorded is no running one, so that what acceptance set need not hold. -/
theorem lifeOk_of_error (hidle : s.busy = false) (herr : s.err = true) (hne : s.error.code ≠ 0#8)
    (hle : s.error.code.toNat ≤ 5) (hprog : s.progress.toNat ≤ 100) : s.LifeOk where
  err := by rw [herr, decide_eq_true hne]
  code := hle
  noError h := absurd h hne
  running hbusy := by rw [hidle] at hbusy; cases hbusy
  progress := hprog

theorem EventDid.keeps_lifeOk (h : EventDid s t) (hs : s.LifeOk) : t.LifeOk := by
  cases h with
  | nothing => exact hs
  | read | setIrqEn | setInLen => exact hs.of_life_eq rfl
  | storeIn a v n => rw [bytesWrite_eq]; exact hs.of_life_eq rfl
  | ack => exact ⟨hs.err, hs.code, hs.noError, fun hbusy => ⟨rfl, (hs.running hbusy).2⟩, hs.progress⟩
  | badCommand hidle op =>
    exact lifeOk_of_error hidle rfl (by simp [badCommandCode]) (by simp [badCommandCode]) hs.progress
  | accept i => exact lifeOk_of_noError (.inr ⟨rfl, rfl⟩) rfl rfl (Nat.zero_le _)
  | success h => exact lifeOk_of_noError (.inl rfl) rfl rfl le_rfl
  | failure e =>
    exact lifeOk_of_error rfl rfl e.cause.code_bounds.1 e.cause.code_bounds.2 (Nat.zero_le _)
  | reset => exact lifeOk_of_noError (.inl rfl) rfl rfl (Nat.zero_le _)

/-! ### The destinations -/

/-- The capacities and CEILING, as `omega` can use them. -/
theorem Params.bounds {p : Params} (h : p.wf = true) :
    256 ≤ p.ceiling ∧ p.ceiling ≤ 65536 ∧ p.outCap ≤ 268435456 ∧ p.tokCap ≤ 134217728 ∧ p.pkCap ≤ 268435456 := by
  simp only [Params.wf, decide_eq_true_eq] at h
  omega

theorem toNat_ofNat_le_of_le {w n m : Nat} (h : n ≤ m) : (BitVec.ofNat w n).toNat ≤ m := by
  rw [BitVec.toNat_ofNat]
  exact (Nat.mod_le _ _).trans h

theorem State.DestOk.dropTokens (h : s.DestOk) : s.dropTokens.DestOk :=
  { h with tokLen := Nat.zero_le _, tokFollows := fun _ => rfl }

theorem State.DestOk.dropCodes (h : s.DestOk) : s.dropCodes.DestOk :=
  { h with codesNeedTree := nofun }

/-- TREE_V is cleared together with CODES_V, which needs it (10_state.md R130 item 3). -/
theorem State.DestOk.dropTreeCodes (h : s.DestOk) : s.dropTree.dropCodes.DestOk :=
  { h with treeFollows := fun _ => rfl, codesNeedTree := nofun }

theorem State.DestOk.dropPacked (h : s.DestOk) : s.dropPacked.DestOk :=
  { h with pkLen := Nat.zero_le _, pkFollows := fun _ => ⟨rfl, rfl⟩, padding := fun _ => rfl }

theorem State.DestOk.putTokens (h : s.DestOk) {toks : List Nat} (hlen : toks.length ≤ s.params.tokCap) :
    (s.putTokens toks).DestOk :=
  { h with tokLen := toNat_ofNat_le_of_le hlen, tokFollows := nofun }

theorem State.DestOk.putTree (h : s.DestOk) (arena : List Node) (root count : Nat) :
    (s.putTree arena root count).DestOk :=
  { h with treeFollows := nofun, codesNeedTree := fun _ => rfl }

theorem State.DestOk.putCodes (h : s.DestOk) (htree : s.valid.tree = true) (codes : Sparse Bits) :
    (s.putCodes codes).DestOk :=
  { h with codesNeedTree := fun _ => htree }

theorem State.DestOk.putPacked (h : s.DestOk) {pk : List Byte} {pad : Nat} (hlen : pk.length ≤ s.params.pkCap)
    (hpad : pk = [] → pad = 0) : (s.putPacked pk pad).DestOk :=
  { h with
    pkLen := toNat_ofNat_le_of_le hlen
    pkFollows := nofun
    padding := fun hzero => by
      obtain ⟨-, -, -, -, hcap⟩ := Params.bounds h.params
      have hnil : pk = [] := by
        have := congrArg BitVec.toNat hzero
        rw [State.putPacked_pkLen, BitVec.toNat_ofNat, BitVec.toNat_ofNat] at this
        exact List.eq_nil_of_length_eq_zero (by omega)
      rw [State.putPacked_padLen, hpad hnil] }

theorem State.DestOk.putOut (h : s.DestOk) {b : List Byte} (hlen : b.length ≤ s.params.outCap) :
    (s.putOut b).DestOk :=
  { h with outLen := toNat_ofNat_le_of_le hlen }

theorem StageDid.keeps_destOk (h : StageDid s t) (hs : s.DestOk) : t.DestOk := by
  obtain ⟨hceil, -⟩ := Params.bounds hs.params
  cases h with
  | lzwEncode h => exact hs.dropTreeCodes.dropPacked.putTokens (lzwEncode_bounds hceil h).2
  | lzwDecode h => exact hs.putOut (lzwDecode_length_le h)
  | hufBuild htok hne => exact hs.dropCodes.dropPacked.putTree _ _ _
  | hufCodegen htree => exact hs.putCodes htree _
  | pack h => exact hs.putPacked (packTokens_bounds h).1 (packTokens_bounds h).2
  | unpack htree h => exact hs.putTokens (unpackTokens_tokensFit h).2
  | serialize h => exact hs.putOut (serializeArtifact_ok h).2
  | parse h =>
    exact (hs.dropTokens.dropCodes.putTree _ _ _).putPacked (parseArtifact_pk_bounds h).1 (parseArtifact_pk_bounds h).2

/-! ### Nothing held -/

/-- No destination holds anything: what resets and error completions leave. -/
def Data.blank (p : Params) (root : Nat) : Data :=
  ⟨p, 0#32, 0#32, 0#32, 0#3, ⟨false, false, false, false⟩, 0#17, [], [], [], [], root, []⟩

/-- What every stage keeps, and what holds of a state by its data and with blank data, every event keeps. -/
theorem EventDid.keeps_of_data {P : State → Prop} (hstage : ∀ {s t : State}, StageDid s t → P s → P t)
    (hdata : ∀ {s t : State}, P s → t.data = s.data → P t)
    (hblank : ∀ {s t : State} {root : Nat}, P s → t.data = .blank s.params root → P t) (h : EventDid s t) (hs : P s) :
    P t := by
  cases h with
  | nothing => exact hs
  | read | setIrqEn | setInLen | ack | badCommand | accept => exact hdata hs rfl
  | storeIn a v n => exact hdata hs (by rw [bytesWrite_eq]; rfl)
  | success h => exact hdata (run_keeps hstage h hs) rfl
  | failure | reset => exact hblank hs rfl

theorem destOk_of_blank {p : Params} {root : Nat} (hp : p.wf = true) (h : s.data = .blank p root) : s.DestOk := by
  cases s
  simp only [State.data, Data.blank, Data.mk.injEq] at h
  obtain ⟨rfl, rfl, rfl, rfl, rfl, rfl, rfl, -, -, -, -, -, -⟩ := h
  exact ⟨hp, Nat.zero_le _, Nat.zero_le _, Nat.zero_le _, fun _ => rfl, fun _ => rfl, fun _ => ⟨rfl, rfl⟩, nofun,
    fun _ => rfl⟩

theorem EventDid.keeps_destOk (h : EventDid s t) (hs : s.DestOk) : t.DestOk :=
  h.keeps_of_data StageDid.keeps_destOk State.DestOk.of_data_eq (fun hs => destOk_of_blank hs.params) hs

theorem EventDid.keeps_regsOk (h : EventDid s t) (hs : s.RegsOk) : t.RegsOk := by
  obtain ⟨hlife, hdest⟩ := (State.regsOk_iff s).1 hs
  exact (State.regsOk_iff t).2 ⟨h.keeps_lifeOk hlife, h.keeps_destOk hdest⟩

/-- Settles O59: every event keeps both halves of `RegsOk`. -/
theorem stepKeepsTheRegisters : Obligations.StepKeepsTheRegisters :=
  fun _ _ hs h => step_keeps (fun _ a hu => hu.withAgenda a) EventDid.keeps_regsOk hs h

end Sys2Proof.Machine
end

section
/-! SUPPORT. Trees in the arena: what it is for a list of nodes to hold a tree, and that the builder's nodes hold one
whose leaves are the tokens' symbols. -/

namespace Sys2Proof.Machine

/-! ### Trees as nodes -/

/-- The nodes hold the tree `t` from handle `h` on (10_state.md R122, R123). -/
inductive Holds (arena : List Node) : Nat → HufTree → Prop where
  | leaf {h : Nat} {sym : BitVec 16} {freq : BitVec 32} (hnode : arena[h]? = some (.leaf sym freq)) :
      Holds arena h (.leaf sym.toNat)
  | node {h l r : Nat} {freq : BitVec 32} {tl tr : HufTree} (hnode : arena[h]? = some (.internal l r freq))
      (hl : Holds arena l tl) (hr : Holds arena r tr) : Holds arena h (.node tl tr)

/-- A symbol below 65536 fits the field of its leaf. -/
theorem holds_leaf_ofNat {arena : List Node} {h sym : Nat} {freq : BitVec 32} (hsym : sym < 65536)
    (hnode : arena[h]? = some (.leaf (BitVec.ofNat 16 sym) freq)) : Holds arena h (.leaf sym) := by
  have hval : (BitVec.ofNat 16 sym).toNat = sym := Nat.mod_eq_of_lt hsym
  simpa only [hval] using Holds.leaf hnode

/-- Reading the arena gives the tree that its nodes hold. -/
theorem Holds.readTree_eq {arena : List Node} {h fuel : Nat} {t : HufTree} (ht : Holds arena h t)
    (hfuel : t.nodes ≤ fuel) : readTree (Sparse.ofList arena) fuel h = some t := by
  induction ht generalizing fuel with
  | leaf hnode =>
    cases fuel with
    | zero => simp [HufTree.nodes] at hfuel
    | succ fuel => simp [readTree, hnode]
  | node hnode _ _ ihl ihr =>
    simp only [HufTree.nodes] at hfuel
    cases fuel with
    | zero => omega
    | succ fuel => simp [readTree, hnode, ihl (fuel := fuel) (by omega), ihr (fuel := fuel) (by omega)]

/-- What agrees with the nodes wherever they have one holds the same trees. -/
theorem Holds.mono {arena arena' : List Node} (hle : ∀ (i : Nat) (n : Node), arena[i]? = some n → arena'[i]? = some n)
    {h : Nat} {t : HufTree} (ht : Holds arena h t) : Holds arena' h t := by
  induction ht with
  | leaf hnode => exact .leaf (hle _ _ hnode)
  | node hnode _ _ ihl ihr => exact .node (hle _ _ hnode) ihl ihr

theorem Holds.append {arena : List Node} {h : Nat} {t : HufTree} (ht : Holds arena h t) (more : List Node) :
    Holds (arena ++ more) h t :=
  ht.mono fun _ _ hn => by rw [List.getElem?_append_left (List.getElem?_eq_some_iff.1 hn).1, hn]

/-- A binary tree has one leaf more than internal nodes. -/
theorem nodes_add_one (t : HufTree) : t.nodes + 1 = 2 * t.symbols.length := by
  induction t with
  | leaf sym => rfl
  | node l r ihl ihr => simp only [HufTree.nodes, HufTree.symbols, List.length_append]; omega

/-- Distinct numbers below a bound are at most as many as the bound. -/
theorem length_le_of_nodup_of_lt {l : List Nat} {n : Nat} (hnd : l.Nodup) (hlt : ∀ x ∈ l, x < n) : l.length ≤ n := by
  simpa using (List.subperm_of_subset hnd fun x hx => List.mem_range.2 (hlt x hx)).length_le

/-- A tree fit for the core has at most NODE_CAP nodes (00_scope.md R11). -/
theorem HufTreeOk.nodes_lt {ceiling : Nat} {t : HufTree} (h : HufTreeOk ceiling t) : t.nodes < 2 * ceiling := by
  obtain ⟨hnd, hlt⟩ := h
  have hlen := length_le_of_nodup_of_lt hnd hlt
  have hnodes := nodes_add_one t
  omega

/-- The nodes are those of one tree fit for the core, and no more. -/
structure TreeMade (ceiling : Nat) (arena : List Node) (root count : Nat) (t : HufTree) : Prop where
  holds : Holds arena root t
  arenaLen : arena.length = count
  nodes : t.nodes = count
  fit : HufTreeOk ceiling t

/-! ### The builder's queue -/

/-- The queue's entries stand for the trees `ts`, entry by entry. -/
abbrev Forest (arena : List Node) (q : List PqEntry) (ts : List HufTree) : Prop :=
  List.Forall₂ (fun e t => Holds arena e.handle t) q ts

theorem Forest.append {arena : List Node} {q : List PqEntry} {ts : List HufTree} (h : Forest arena q ts)
    (more : List Node) : Forest (arena ++ more) q ts := h.imp fun _ _ ht => ht.append more

/-- An insertion into the queue adds one tree. -/
theorem Forest.pqInsert {arena : List Node} {q : List PqEntry} {ts : List HufTree} (h : Forest arena q ts) {x : PqEntry}
    {t : HufTree} (hx : Holds arena x.handle t) : ∃ us, Forest arena (pqInsert x q) us ∧ us.Perm (t :: ts) :=
  List.perm_comp_forall₂ (pqInsert_perm x q) (h.cons hx)

/-- The merge loop joins the trees of the queue into one, with one node more for each merge (41_huffman.md R515). -/
theorem mergeLoop_holds {ceiling fuel k : Nat} {q : List PqEntry} {arena : List Node} {ts : List HufTree}
    (hq : Forest arena q ts) (hne : q ≠ []) (hfuel : q.length ≤ fuel + 1) :
    (mergeLoop ceiling fuel k q arena).1.length + 1 = arena.length + q.length ∧
    ∃ t, Holds (mergeLoop ceiling fuel k q arena).1 (mergeLoop ceiling fuel k q arena).2 t ∧
      t.symbols.Perm (ts.flatMap HufTree.symbols) := by
  induction fuel generalizing k q arena ts with
  | zero =>
    match q, hq with
    | [e], .cons he .nil => exact ⟨rfl, _, he, by simp⟩
    | _ :: _ :: _, _ => simp at hfuel
  | succ fuel ih =>
    match q, hq with
    | [e], .cons he .nil => exact ⟨rfl, _, he, by simp⟩
    | a :: b :: rest, .cons (b := ta) ha (.cons (b := tb) (l₂ := ts) hb hrest) =>
      rw [mergeLoop_succ_cons_cons]
      set parent : Node := .internal a.handle b.handle (BitVec.ofNat 32 (a.freq + b.freq))
      set entry : PqEntry := ⟨a.freq + b.freq, ceiling + k, arena.length⟩
      have hparent : Holds (arena ++ [parent]) entry.handle (.node ta tb) :=
        .node (freq := BitVec.ofNat 32 (a.freq + b.freq)) (by simp [entry, parent]) (ha.append _) (hb.append _)
      obtain ⟨us, hus, hperm⟩ := Forest.pqInsert (Forest.append hrest [parent]) hparent
      obtain ⟨hlen, t, ht, hsym⟩ := ih (k := k + 1) hus (List.ne_nil_of_length_pos (by simp)) (by
        simp only [List.length_cons, pqInsert_length] at hfuel ⊢; omega)
      refine ⟨?_, t, ht, hsym.trans ?_⟩
      · simp only [List.length_append, List.length_cons, List.length_nil, pqInsert_length] at hlen ⊢; omega
      · simpa [HufTree.symbols] using hperm.flatMap_right HufTree.symbols

theorem leafNodes_length (fr : Sparse Nat) : (leafNodes fr).length = fr.length := List.length_map _

/-- The initial queue stands for one leaf for each symbol (41_huffman.md R512). -/
theorem initialQueue_forest (pre : List Node) {fr : Sparse Nat} (hlt : ∀ p ∈ fr, p.1 < 65536) :
    ∃ ts, Forest (pre ++ leafNodes fr) (initialQueue pre.length fr) ts ∧
      ts.Perm (fr.map fun p => HufTree.leaf p.1) := by
  induction fr generalizing pre with
  | nil => exact ⟨[], .nil, List.Perm.refl _⟩
  | cons p fr ih =>
    obtain ⟨sym, f⟩ := p
    obtain ⟨hsym, hlt⟩ := List.forall_mem_cons.1 hlt
    set leaf : Node := .leaf (BitVec.ofNat 16 sym) (BitVec.ofNat 32 f)
    obtain ⟨ts, hts, hperm⟩ := ih (pre ++ [leaf]) hlt
    rw [List.append_assoc, List.length_append] at hts
    have hleaf : Holds (pre ++ leafNodes ((sym, f) :: fr)) pre.length (.leaf sym) :=
      holds_leaf_ofNat (freq := BitVec.ofNat 32 f) hsym (by simp [leafNodes])
    obtain ⟨us, hus, hperm'⟩ := Forest.pqInsert (x := ⟨f, sym, pre.length⟩) hts hleaf
    exact ⟨us, hus, hperm'.trans (hperm.cons _)⟩

/-! ### The symbols -/

theorem mem_keys_countSymbol {m : Sparse Nat} {x y : Nat} :
    y ∈ (countSymbol m x).map Prod.fst ↔ y = x ∨ y ∈ m.map Prod.fst := by
  rw [← Sparse.isSome_read_iff, ← Sparse.isSome_read_iff, countSymbol, Sparse.read_write]
  by_cases h : x = y
  · simp [h]
  · simp [h, Ne.symm h]

theorem frequencies_wf (t : List Nat) : Sparse.wf (frequencies t) = true :=
  List.foldlRecOn (motive := fun m => Sparse.wf m = true) t countSymbol rfl fun _ hm _ _ => Sparse.wf_write _ _ hm

/-- The symbols counted are the tokens' (41_huffman.md R511). -/
theorem mem_keys_frequencies {t : List Nat} {y : Nat} : y ∈ (frequencies t).map Prod.fst ↔ y ∈ t := by
  suffices ∀ m : Sparse Nat, y ∈ (t.foldl countSymbol m).map Prod.fst ↔ y ∈ t ∨ y ∈ m.map Prod.fst by
    simpa [frequencies] using this []
  induction t with
  | nil => simp
  | cons x t ih => intro m; rw [List.foldl_cons, ih, mem_keys_countSymbol, List.mem_cons]; tauto

theorem Sparse.keys_nodup {α : Type} {m : Sparse α} (h : Sparse.wf m = true) : (m.map Prod.fst).Nodup :=
  List.pairwise_map.2 (((Sparse.wf_iff_pairwise m).1 h).imp Nat.ne_of_lt)

/-- The builder makes one tree, whose leaves are the tokens' symbols, each once (41_huffman.md R519). -/
theorem hufBuild_treeMade {ceiling : Nat} {t : List Nat} (hc : ceiling ≤ 65536) (hne : t ≠ [])
    (hlt : ∀ x ∈ t, x < ceiling) :
    ∃ tr, TreeMade ceiling (hufBuild ceiling t).arena (hufBuild ceiling t).root (hufBuild ceiling t).count tr ∧
      ∀ x ∈ t, x ∈ tr.symbols := by
  have hkeys : ∀ p ∈ frequencies t, p.1 < ceiling := fun p hp =>
    hlt _ (mem_keys_frequencies.1 (List.mem_map_of_mem hp))
  obtain ⟨ts, hts, hperm⟩ : ∃ ts, Forest (leafNodes (frequencies t)) (initialQueue 0 (frequencies t)) ts ∧
      ts.Perm ((frequencies t).map fun p : Nat × Nat => HufTree.leaf p.1) :=
    initialQueue_forest [] fun p hp => (hkeys p hp).trans_le hc
  have hqlen : (initialQueue 0 (frequencies t)).length = (frequencies t).length := by
    simpa using hts.length_eq.trans hperm.length_eq
  have hfr : (frequencies t).length ≠ 0 := by
    obtain ⟨x, hx⟩ := List.exists_mem_of_ne_nil t hne
    have := List.length_pos_of_mem (mem_keys_frequencies.2 hx)
    rw [List.length_map] at this
    omega
  obtain ⟨hlen, tr, htr, hsym⟩ := mergeLoop_holds (ceiling := ceiling) (fuel := (frequencies t).length) (k := 0) hts
    (List.ne_nil_of_length_pos (by omega)) (by rw [hqlen]; omega)
  rw [leafNodes_length, hqlen] at hlen
  have hkeysPerm : tr.symbols.Perm ((frequencies t).map Prod.fst) := by
    have hleaves := hsym.trans (hperm.flatMap_right HufTree.symbols)
    simpa [List.flatMap_map, HufTree.symbols, ← List.map_eq_flatMap] using hleaves
  have hnodes := nodes_add_one tr
  rw [hkeysPerm.length_eq, List.length_map] at hnodes
  have hnodup : tr.symbols.Nodup := hkeysPerm.nodup_iff.2 (Sparse.keys_nodup (frequencies_wf t))
  refine ⟨tr, ⟨htr, ?_, ?_, hnodup, fun x hx => ?_⟩, fun x hx => ?_⟩
  · simp only [hufBuild]; omega
  · simp only [hufBuild]; omega
  · exact hlt x (mem_keys_frequencies.1 (hkeysPerm.mem_iff.1 hx))
  · exact hkeysPerm.mem_iff.2 (mem_keys_frequencies.2 hx)

end Sys2Proof.Machine
end

section
/-! SUPPORT. The parser's node loop: it loads one subtree into the innermost open slot, then goes on with the next slot,
so that a loop which fills every slot has loaded one tree (43_container.md R716). -/

namespace Sys2Proof.Machine

/-! ### Attaching a node -/

theorem setLeft_at (A B : List Node) (l r i : Nat) (f : BitVec 32) :
    setLeft (A ++ .internal l r f :: B) A.length i = A ++ .internal i r f :: B := by simp [setLeft]

theorem setRight_at (A B : List Node) (l r i : Nat) (f : BitVec 32) :
    setRight (A ++ .internal l r f :: B) A.length i = A ++ .internal l i f :: B := by simp [setRight]

theorem setLeft_append {A : List Node} (B : List Node) {h : Nat} (i : Nat) (hlt : h < A.length) :
    setLeft (A ++ B) h i = setLeft A h i ++ B := by
  unfold setLeft
  rw [List.getElem?_append_left hlt]
  split
  · rw [List.set_append_left _ _ hlt]
  · rfl

theorem setRight_append {A : List Node} (B : List Node) {h : Nat} (i : Nat) (hlt : h < A.length) :
    setRight (A ++ B) h i = setRight A h i ++ B := by
  unfold setRight
  rw [List.getElem?_append_left hlt]
  split
  · rw [List.set_append_left _ _ hlt]
  · rfl

@[simp] theorem setLeft_length (A : List Node) (h i : Nat) : (setLeft A h i).length = A.length := by
  unfold setLeft
  split <;> simp

@[simp] theorem setRight_length (A : List Node) (h i : Nat) : (setRight A h i).length = A.length := by
  unfold setRight
  split <;> simp

/-- The open internal nodes stand in the arena. -/
def StackIn (arena : List Node) (stack : List (Nat × Bool)) : Prop := ∀ e ∈ stack, e.1 < arena.length

theorem stackIn_nil (arena : List Node) : StackIn arena [] := List.forall_mem_nil _

/-- Attaching works on the nodes of the stack alone. -/
theorem attach_append {A : List Node} {S : List (Nat × Bool)} (B : List Node) (i : Nat) (hS : StackIn A S) :
    attach (A ++ B) S i = ((attach A S i).1 ++ B, (attach A S i).2) := by
  match S with
  | [] => rfl
  | (h, false) :: S => simp [attach, setLeft_append B i (hS (h, false) List.mem_cons_self)]
  | (h, true) :: S => simp [attach, setRight_append B i (hS (h, true) List.mem_cons_self)]

@[simp] theorem attach_length (A : List Node) (S : List (Nat × Bool)) (i : Nat) :
    (attach A S i).1.length = A.length := by
  match S with
  | [] => rfl
  | (h, false) :: S => exact setLeft_length A h i
  | (h, true) :: S => exact setRight_length A h i

theorem StackIn.attach {A : List Node} {S : List (Nat × Bool)} (hS : StackIn A S) (i : Nat) :
    StackIn A (attach A S i).2 := by
  match S with
  | [] => exact hS
  | (h, false) :: S =>
    obtain ⟨hh, hrest⟩ := List.forall_mem_cons.1 hS
    exact List.forall_mem_cons.2 ⟨hh, hrest⟩
  | (h, true) :: S => exact (List.forall_mem_cons.1 hS).2

theorem StackIn.mono {A B : List Node} {S : List (Nat × Bool)} (hS : StackIn A S) (hle : A.length ≤ B.length) :
    StackIn B S := fun e he => (hS e he).trans_le hle

/-! ### One subtree -/

/-- The nodes `new`, placed from handle `base` on, hold the tree `t` whatever stands before and after them. -/
def Block (base : Nat) (new : List Node) (t : HufTree) : Prop :=
  new.length = t.nodes ∧ ∀ A B : List Node, A.length = base → Holds (A ++ (new ++ B)) base t

theorem block_leaf {base sym : Nat} (freq : BitVec 32) (hsym : sym < 65536) :
    Block base [.leaf (BitVec.ofNat 16 sym) freq] (.leaf sym) :=
  ⟨rfl, fun A B hA => holds_leaf_ofNat (freq := freq) hsym (by simp [← hA])⟩

theorem block_node {base : Nat} {newL newR : List Node} {tl tr : HufTree} (freq : BitVec 32)
    (hl : Block (base + 1) newL tl) (hr : Block (base + 1 + newL.length) newR tr) :
    Block base (.internal (base + 1) (base + 1 + newL.length) freq :: (newL ++ newR)) (.node tl tr) := by
  obtain ⟨hlenL, hholdsL⟩ := hl
  obtain ⟨hlenR, hholdsR⟩ := hr
  refine ⟨by simp only [List.length_cons, List.length_append, HufTree.nodes]; omega, fun A B hA => ?_⟩
  set top : Node := .internal (base + 1) (base + 1 + newL.length) freq
  refine .node (l := base + 1) (r := base + 1 + newL.length) (freq := freq) (by simp [← hA, top]) ?_ ?_
  · simpa using hholdsL (A ++ [top]) (newR ++ B) (by simp [hA])
  · simpa using hholdsR (A ++ top :: newL) B (by simp [hA]; omega)

/-- From `p` to `p'` the parser read the tree `t` into the innermost open slot. -/
structure SubtreeRead (p p' : ParseState) (t : HufTree) : Prop where
  need : p'.need + 1 = p.need
  seen : p'.seen = t.symbols.reverse ++ p.seen
  stack : p'.stack = (attach p.arena p.stack p.arena.length).2
  arena : ∃ new, p'.arena = (attach p.arena p.stack p.arena.length).1 ++ new ∧ Block p.arena.length new t

section Node

variable {p p' : ParseState} {A newL : List Node} {S : List (Nat × Bool)} {freq : BitVec 32} {t : HufTree}

/-- The first subtree read after an internal node becomes its left child. -/
theorem SubtreeRead.left {i : Nat} (h : SubtreeRead p p' t) (hi : A.length = i)
    (harena : p.arena = A ++ [.internal 0 0 freq]) (hstack : p.stack = (i, false) :: S) :
    p'.stack = (i, true) :: S ∧
    ∃ new, p'.arena = A ++ .internal (i + 1) 0 freq :: new ∧ Block (i + 1) new t := by
  obtain ⟨-, -, hs, new, ha, hblock⟩ := h
  have hlen : p.arena.length = i + 1 := by rw [harena, List.length_append, hi]; rfl
  rw [hlen] at hs ha hblock
  rw [hstack] at hs ha
  subst hi
  refine ⟨hs, new, ?_, hblock⟩
  rw [ha, attach, harena, setLeft_at]
  simp

/-- The subtree read after the left child becomes the right child. -/
theorem SubtreeRead.right {i l : Nat} (h : SubtreeRead p p' t) (hi : A.length = i)
    (harena : p.arena = A ++ .internal l 0 freq :: newL) (hstack : p.stack = (i, true) :: S) :
    p'.stack = S ∧ ∃ new, p'.arena = A ++ .internal l (i + 1 + newL.length) freq :: (newL ++ new) ∧
      Block (i + 1 + newL.length) new t := by
  obtain ⟨-, -, hs, new, ha, hblock⟩ := h
  have hlen : p.arena.length = i + 1 + newL.length := by
    rw [harena, List.length_append, List.length_cons, hi]
    omega
  rw [hlen] at hs ha hblock
  rw [hstack] at hs ha
  subst hi
  refine ⟨hs, new, ?_, hblock⟩
  rw [ha, attach, harena, setRight_at]
  simp

end Node

/-- A node loop that closes a slot reads a whole subtree first, and goes on from there. -/
theorem parseNodes_reads_subtree {ceiling : Nat} {freq : Nat → BitVec 32} (hc : ceiling ≤ 65536) {n : Nat}
    {p q : ParseState} (hstack : StackIn p.arena p.stack) (h : parseNodes ceiling freq n p = .ok q)
    (hneed : q.need < p.need) :
    ∃ k t p', k + t.nodes = n ∧ SubtreeRead p p' t ∧ parseNodes ceiling freq k p' = .ok q := by
  induction n using Nat.strong_induction_on generalizing p with
  | _ n ih =>
  cases n with
  | zero => cases h; exact absurd hneed (Nat.lt_irrefl _)
  | succ n =>
    obtain ⟨r, hr, hrest⟩ := parseNodes_succ_ok h
    obtain ⟨hopen, _, _, -, ⟨-, -, hrneed, hrseen, hrarena, hrstack⟩ |
      ⟨-, sym, _, -, hsym, -, -, hrneed, hrseen, hrarena, hrstack⟩⟩ := parseNode_ok hr
    all_goals rw [attach_append _ _ hstack] at hrarena hrstack
    case inr =>
      exact ⟨n, .leaf sym, r, rfl, ⟨by omega, hrseen, hrstack, _, hrarena, block_leaf _ (hsym.trans_le hc)⟩, hrest⟩
    case inl =>
      have hlen := attach_length p.arena p.stack p.arena.length
      have hin := hstack.attach p.arena.length
      have hrin : StackIn r.arena r.stack := by
        rw [hrarena, hrstack]
        refine List.forall_mem_cons.2 ⟨by simp, hin.mono (by simp)⟩
      obtain ⟨k, tl, p2, hk, hleft, hrest2⟩ := ih n (Nat.lt_succ_self n) hrin hrest (by omega)
      obtain ⟨hstack2, newL, harena2, hblockL⟩ := hleft.left hlen hrarena hrstack
      have hin2 : StackIn p2.arena p2.stack := by
        rw [harena2, hstack2]
        refine List.forall_mem_cons.2 ⟨by simp, hin.mono (by simp)⟩
      have hneed2 := hleft.need
      obtain ⟨k', tr, p3, hk', hright, hrest3⟩ := ih k (by omega) hin2 hrest2 (by omega)
      obtain ⟨hstack3, newR, harena3, hblockR⟩ := hright.right hlen harena2 hstack2
      have hneed3 := hright.need
      refine ⟨k', .node tl tr, p3, by simp only [HufTree.nodes]; omega,
        ⟨by omega, ?_, hstack3, _, harena3, block_node _ hblockL hblockR⟩, hrest3⟩
      rw [hright.seen, hleft.seen, hrseen]
      simp [HufTree.symbols]

/-! ### The whole tree -/

/-- The symbols seen are distinct and below CEILING (43_container.md R715). -/
theorem parseNodes_seen {ceiling : Nat} {freq : Nat → BitVec 32} {n : Nat} {p q : ParseState}
    (h : parseNodes ceiling freq n p = .ok q) (hp : p.seen.Nodup ∧ ∀ x ∈ p.seen, x < ceiling) :
    q.seen.Nodup ∧ ∀ x ∈ q.seen, x < ceiling := by
  induction n generalizing p with
  | zero => cases h; exact hp
  | succ n ih =>
    obtain ⟨r, hr, hrest⟩ := parseNodes_succ_ok h
    refine ih hrest ?_
    obtain ⟨-, _, _, -, ⟨-, -, -, hseen, -, -⟩ | ⟨-, sym, _, -, hsym, hnew, -, -, hseen, -, -⟩⟩ := parseNode_ok hr
    · rwa [hseen]
    · rw [hseen]
      exact ⟨List.nodup_cons.2 ⟨hnew, hp.1⟩, List.forall_mem_cons.2 ⟨hsym, hp.2⟩⟩

/-- A successful parse made one tree fit for the core, from handle 0 on (43_container.md R721). -/
theorem parseArtifact_treeMade {params : Params} {freq : Nat → BitVec 32} {a : List Byte} {r : Parsed}
    (hc : params.ceiling ≤ 65536) (h : parseArtifact params freq a = .ok r) :
    ∃ t, TreeMade params.ceiling r.arena r.root r.count t := by
  obtain ⟨_, rest, q, -, -, -, -, -, hloop, hneed, -, harena, hroot⟩ := parseArtifact_ok h
  obtain ⟨k, t, p', hk, hread, hrest⟩ := parseNodes_reads_subtree hc (stackIn_nil _) hloop
    (by rw [hneed]; exact Nat.one_pos)
  obtain ⟨hneed', hseen, -, new, hnew, hlen, hholds⟩ := hread
  -- with no slot open the loop takes no further node
  obtain rfl : k = 0 := by
    cases k with
    | zero => rfl
    | succ k =>
      obtain ⟨_, hnode, -⟩ := parseNodes_succ_ok hrest
      exact absurd (Nat.succ.inj hneed') (parseNode_ok hnode).1
  cases hrest
  have hcount : t.nodes = r.count := by omega
  obtain ⟨hnodup, hlt⟩ := parseNodes_seen hloop ⟨List.nodup_nil, List.forall_mem_nil _⟩
  rw [hseen, List.append_nil] at hnodup hlt
  have harena' : r.arena = new := harena.trans hnew
  refine ⟨t, ?_, by rw [harena', hlen, hcount], hcount, List.nodup_reverse.1 hnodup,
    fun x hx => hlt x (List.mem_reverse.2 hx)⟩
  simpa [harena', hroot] using hholds [] [] rfl

end Sys2Proof.Machine
end

section
/-! SUPPORT. The invariant: the memories and items 1 to 4 of 10_state.md R130, kept by each write of a destination, then
by every stage, every event and every step. -/

namespace Sys2Proof.Machine

/-! ### The two halves of `MemOk` -/

/-- The part of `MemOk` that is about IN_MEM. -/
structure State.InOk (s : State) : Prop where
  inWf : Memory.wf s.inMem = true
  inBound : ∀ i, s.params.inCap ≤ i → Sparse.read s.inMem i = none

/-- The part of `MemOk` that is about the destinations of commands. -/
structure State.BufOk (s : State) : Prop where
  outWf : Memory.wf s.outMem = true
  tokWf : Sparse.wf s.tokMem = true
  pkWf : Memory.wf s.pkMem = true
  arenaWf : Sparse.wf s.arena = true
  codesWf : Sparse.wf s.codes = true
  outListed : ∀ i, (Sparse.read s.outMem i).isSome = decide (i < s.outLen.toNat)
  tokListed : ∀ i, (Sparse.read s.tokMem i).isSome = decide (i < s.tokLen.toNat)
  pkListed : ∀ i, (Sparse.read s.pkMem i).isSome = decide (i < s.pkLen.toNat)
  arenaListed : ∀ i, (Sparse.read s.arena i).isSome = decide (i < s.nodeCount.toNat)
  codesEmpty : s.valid.codes = false → s.codes = []

theorem State.memOk_iff (s : State) : s.MemOk ↔ s.InOk ∧ s.BufOk :=
  ⟨fun h => ⟨⟨h.inWf, h.inBound⟩, ⟨h.outWf, h.tokWf, h.pkWf, h.arenaWf, h.codesWf, h.outListed, h.tokListed, h.pkListed,
      h.arenaListed, h.codesEmpty⟩⟩,
    fun ⟨hi, hb⟩ => ⟨hi.inWf, hb.outWf, hb.tokWf, hb.pkWf, hb.arenaWf, hb.codesWf, hi.inBound, hb.outListed,
      hb.tokListed, hb.pkListed, hb.arenaListed, hb.codesEmpty⟩⟩

variable {s t : State}

/-! ### IN_MEM -/

/-- Everything a byte stored to the IN window can do. -/
theorem inWrite_cases (s : State) (off : Nat) (b : Byte) :
    inWrite s off b = s ∨
    (off < s.params.inCap ∧ inWrite s off b = { s with inMem := Sparse.write s.inMem off b }) := by
  unfold inWrite
  split
  · exact .inl rfl
  · split
    · exact .inl rfl
    · exact .inr ⟨by omega, rfl⟩

theorem State.InOk.inWrite (h : s.InOk) (off : Nat) (b : Byte) : (inWrite s off b).InOk := by
  obtain heq | ⟨hoff, heq⟩ := inWrite_cases s off b <;> rw [heq]
  · exact h
  · refine ⟨Memory.wf_write off b h.inWf, fun i hi => ?_⟩
    exact (Sparse.read_write_other s.inMem b (hoff.trans_le hi).ne).trans (h.inBound i hi)

theorem State.InOk.bytesWrite (h : s.InOk) (a : Nat) (v : Word) (n : Nat) : (bytesWrite s a v n).InOk := by
  induction n with
  | zero => exact h
  | succ n ih =>
    rw [Machine.bytesWrite, byteWrite]
    split
    · exact ih.inWrite _ _
    · exact ih

/-- What the host's side says of IN_MEM, a state with the same host's side says too. -/
theorem State.InOk.of_hostSide_eq (h : s.InOk) (heq : t.hostSide = s.hostSide) : t.InOk := by
  simp only [State.hostSide, Prod.mk.injEq] at heq
  obtain ⟨hparams, -, -, -, -, hmem, -⟩ := heq
  exact ⟨by rw [hmem]; exact h.inWf, by rw [hmem, hparams]; exact h.inBound⟩

theorem EventDid.keeps_inOk (h : EventDid s t) (hs : s.InOk) : t.InOk := by
  cases h with
  | nothing => exact hs
  | read | setIrqEn | setInLen | ack | badCommand | accept | failure => exact ⟨hs.inWf, hs.inBound⟩
  | storeIn a v n => exact hs.bytesWrite a v n
  | success h =>
    have ht := run_keeps (P := State.InOk) (fun hd hu => hu.of_hostSide_eq hd.hostSide_eq) h hs
    exact ⟨ht.inWf, ht.inBound⟩
  | reset => exact ⟨rfl, fun _ _ => rfl⟩

/-! ### The destinations -/

/-- The memory that lists a sequence lists it to its length, held in a register wide enough. -/
theorem ofList_listed {α : Type} {w : Nat} {l : List α} (hlen : l.length < 2 ^ w) (i : Nat) :
    (Sparse.read (Sparse.ofList l) i).isSome = decide (i < (BitVec.ofNat w l.length).toNat) := by
  rw [Sparse.read_ofList, BitVec.toNat_ofNat, Nat.mod_eq_of_lt hlen, Bool.eq_iff_iff]
  simp

theorem State.BufOk.of_data_eq (h : s.BufOk) (heq : t.data = s.data) : t.BufOk := by
  cases s
  cases t
  simp only [State.data, Data.mk.injEq] at heq
  obtain ⟨-, rfl, rfl, rfl, -, rfl, rfl, rfl, rfl, rfl, rfl, -, rfl⟩ := heq
  exact ⟨h.outWf, h.tokWf, h.pkWf, h.arenaWf, h.codesWf, h.outListed, h.tokListed, h.pkListed, h.arenaListed,
    h.codesEmpty⟩

theorem bufOk_of_blank {p : Params} {root : Nat} (h : s.data = .blank p root) : s.BufOk := by
  cases s
  simp only [State.data, Data.blank, Data.mk.injEq] at h
  obtain ⟨-, rfl, rfl, rfl, -, rfl, rfl, rfl, rfl, rfl, rfl, -, rfl⟩ := h
  exact ⟨rfl, rfl, rfl, rfl, rfl, fun _ => rfl, fun _ => rfl, fun _ => rfl, fun _ => rfl, fun _ => rfl⟩

theorem State.BufOk.dropTokens (h : s.BufOk) : s.dropTokens.BufOk :=
  { h with tokWf := rfl, tokListed := fun _ => rfl }

theorem State.BufOk.dropTree (h : s.BufOk) : s.dropTree.BufOk :=
  { h with arenaWf := rfl, arenaListed := fun _ => rfl }

theorem State.BufOk.dropCodes (h : s.BufOk) : s.dropCodes.BufOk :=
  { h with codesWf := rfl, codesEmpty := fun _ => rfl }

theorem State.BufOk.dropPacked (h : s.BufOk) : s.dropPacked.BufOk :=
  { h with pkWf := rfl, pkListed := fun _ => rfl }

theorem State.BufOk.putTokens (h : s.BufOk) {toks : List Nat} (hlen : toks.length < 2 ^ 32) :
    (s.putTokens toks).BufOk :=
  { h with
    tokWf := Sparse.wf_ofList _
    tokListed := by simpa using ofList_listed (l := toks.map (BitVec.ofNat 16)) (w := 32) (by simpa using hlen) }

theorem State.BufOk.putTree (h : s.BufOk) {arena : List Node} {root count : Nat} (hlen : arena.length = count)
    (hcount : count < 2 ^ 17) : (s.putTree arena root count).BufOk :=
  { h with arenaWf := Sparse.wf_ofList _, arenaListed := by subst hlen; exact ofList_listed hcount }

theorem State.BufOk.putCodes (h : s.BufOk) {codes : Sparse Bits} (hwf : Sparse.wf codes = true) :
    (s.putCodes codes).BufOk :=
  { h with codesWf := hwf, codesEmpty := nofun }

theorem State.BufOk.putPacked (h : s.BufOk) {pk : List Byte} (pad : Nat) (hlen : pk.length < 2 ^ 32) :
    (s.putPacked pk pad).BufOk :=
  { h with pkWf := Sparse.wf_ofList _, pkListed := ofList_listed hlen }

theorem State.BufOk.putOut (h : s.BufOk) {b : List Byte} (hlen : b.length < 2 ^ 32) : (s.putOut b).BufOk :=
  { h with outWf := Sparse.wf_ofList _, outListed := ofList_listed hlen }

/-! ### Tokens and trees -/

/-- The tokens a valid token stream lists do not depend on the free values. -/
theorem tokens_eq_of_data_eq (h : s.BufOk) (heq : t.data = s.data) : t.tokens = s.tokens := by
  have hmem : t.tokMem = s.tokMem := congrArg Data.tokMem heq
  have hlen : t.tokLen = s.tokLen := congrArg Data.tokLen heq
  unfold State.tokens
  rw [hlen]
  refine List.map_congr_left fun i hi => ?_
  obtain ⟨v, hv⟩ := Option.isSome_iff_exists.1 ((h.tokListed i).trans (decide_eq_true (List.mem_range.1 hi)))
  simp [State.token, hmem, hv]

/-- The tokens written are the tokens read, when each fits its entry and the length its register. -/
theorem tokens_putTokens {toks : List Nat} (hlen : toks.length < 2 ^ 32) (hlt : ∀ x ∈ toks, x < 2 ^ 16) :
    (s.putTokens toks).tokens = toks := by
  have htoNat : (BitVec.ofNat 32 toks.length).toNat = toks.length := Nat.mod_eq_of_lt hlen
  refine List.ext_getElem (by simp [State.tokens, htoNat]) fun i h₁ h₂ => ?_
  have hi : (BitVec.ofNat 16 toks[i]).toNat = toks[i] := Nat.mod_eq_of_lt (hlt _ (List.getElem_mem h₂))
  simpa [State.tokens, State.token, h₂] using hi

theorem State.CodecOk.of_data_eq (h : s.CodecOk) (hb : s.BufOk) (heq : t.data = s.data) : t.CodecOk := by
  have htok := tokens_eq_of_data_eq hb heq
  have hvalid : t.valid = s.valid := congrArg Data.valid heq
  have hparams : t.params = s.params := congrArg Data.params heq
  have htree : t.tree? = s.tree? := by
    simp only [State.tree?, show t.arena = s.arena from congrArg Data.arena heq, hparams,
      show t.root = s.root from congrArg Data.root heq]
  have hcount : t.nodeCount = s.nodeCount := congrArg Data.nodeCount heq
  have hcodes : t.codes = s.codes := congrArg Data.codes heq
  refine ⟨?_, ?_⟩
  · rw [htok, hvalid, hparams]; exact h.tokens
  · rw [htok, hvalid, hparams, htree, hcount, hcodes]; exact h.tree

theorem codecOk_of_blank {p : Params} {root : Nat} (h : s.data = .blank p root) : s.CodecOk := by
  have hvalid : s.valid = ⟨false, false, false, false⟩ := congrArg Data.valid h
  exact ⟨fun htok => by simp [hvalid] at htok, fun htree => by simp [hvalid] at htree⟩

/-- A tree written is the tree read. -/
theorem tree?_putTree {arena : List Node} {root count : Nat} {tr : HufTree}
    (h : TreeMade s.params.ceiling arena root count tr) : (s.putTree arena root count).tree? = some tr :=
  h.holds.readTree_eq (by have := h.fit.nodes_lt; simp only [Params.nodeCap, State.putTree_params]; omega)

theorem toNat_nodeCount_putTree {arena : List Node} {root count : Nat} {tr : HufTree} (hc : s.params.ceiling ≤ 65536)
    (h : TreeMade s.params.ceiling arena root count tr) :
    tr.nodes = (s.putTree arena root count).nodeCount.toNat := by
  have hlt := h.fit.nodes_lt
  rw [State.putTree_nodeCount, BitVec.toNat_ofNat, h.nodes]
  rw [h.nodes] at hlt
  omega

/-! ### Every stage -/

/-- All of the invariant that is about data. -/
structure State.DataOk (s : State) : Prop where
  dest : s.DestOk
  buf : s.BufOk
  codec : s.CodecOk

theorem StageDid.keeps_bufOk (h : StageDid s t) (hs : s.DataOk) : t.BufOk := by
  obtain ⟨hceil, hceil', hout, htok, hpk⟩ := Params.bounds hs.dest.params
  have hbuf := hs.buf
  cases h with
  | lzwEncode h =>
    have hlen := (lzwEncode_bounds hceil h).2
    exact hbuf.dropTree.dropCodes.dropPacked.putTokens (by omega)
  | lzwDecode h =>
    have hlen := lzwDecode_length_le h
    exact hbuf.putOut (by omega)
  | hufBuild hv hne =>
    obtain ⟨tr, hmade, -⟩ := hufBuild_treeMade hceil' hne (hs.codec.tokens hv)
    have hnodes := hmade.fit.nodes_lt
    exact hbuf.dropCodes.dropPacked.putTree hmade.arenaLen (by rw [← hmade.nodes]; omega)
  | hufCodegen => exact hbuf.putCodes (codeTable_wf _)
  | pack h =>
    have hlen := (packTokens_bounds h).1
    exact hbuf.putPacked _ (by omega)
  | unpack _ h =>
    have hlen := (unpackTokens_tokensFit h).2
    exact hbuf.putTokens (by omega)
  | serialize h =>
    have hlen := (serializeArtifact_ok h).2
    exact hbuf.putOut (by omega)
  | parse h =>
    obtain ⟨tr, hmade⟩ := parseArtifact_treeMade hceil' h
    have hnodes := hmade.fit.nodes_lt
    have hlen := (parseArtifact_pk_bounds h).1
    exact (hbuf.dropTokens.dropCodes.putTree hmade.arenaLen (by rw [← hmade.nodes]; omega)).putPacked _ (by omega)

theorem StageDid.keeps_codecOk (h : StageDid s t) (hs : s.DataOk) : t.CodecOk := by
  obtain ⟨hceil, hceil', -, htokCap, -⟩ := Params.bounds hs.dest.params
  obtain ⟨htokens, htree⟩ := hs.codec
  cases h with
  | lzwEncode h =>
    obtain ⟨hlt, hlen⟩ := lzwEncode_bounds hceil h
    refine ⟨fun _ => ?_, nofun⟩
    rw [tokens_putTokens (by omega) fun x hx => (hlt x hx).trans_le hceil']
    exact hlt
  | lzwDecode | serialize | pack => exact ⟨htokens, htree⟩
  | hufBuild hv hne =>
    obtain ⟨tr, hmade, hall⟩ := hufBuild_treeMade hceil' hne (htokens hv)
    exact ⟨htokens, fun _ => ⟨tr, tree?_putTree (s := s.dropCodes.dropPacked) hmade,
      toNat_nodeCount_putTree (s := s.dropCodes.dropPacked) hceil' hmade, hmade.fit, nofun, fun _ => hall⟩⟩
  | hufCodegen hv =>
    obtain ⟨tr, htr, hnodes, hfit, -, hall⟩ := htree hv
    exact ⟨htokens, fun _ => ⟨tr, htr, hnodes, hfit, fun _ => by rw [State.tree_eq_of_some htr]; rfl, hall⟩⟩
  | unpack hv h =>
    obtain ⟨tr, htr, hnodes, hfit, hcodes, -⟩ := htree hv
    rw [State.tree_eq_of_some htr] at h
    obtain ⟨hsub, hlen⟩ := unpackTokens_tokensFit h
    have hread := tokens_putTokens (s := s) (by omega) fun x hx => (hfit.2 x (hsub hx)).trans_le hceil'
    exact ⟨fun _ => by rw [hread]; exact fun x hx => hfit.2 x (hsub hx),
      fun _ => ⟨tr, htr, hnodes, hfit, hcodes, fun _ => by rw [hread]; exact fun x hx => hsub hx⟩⟩
  | parse h =>
    obtain ⟨tr, hmade⟩ := parseArtifact_treeMade hceil' h
    exact ⟨nofun, fun _ => ⟨tr, tree?_putTree (s := s.dropTokens.dropCodes) hmade,
      toNat_nodeCount_putTree (s := s.dropTokens.dropCodes) hceil' hmade, hmade.fit, nofun, nofun⟩⟩

theorem StageDid.keeps_dataOk (h : StageDid s t) (hs : s.DataOk) : t.DataOk :=
  ⟨h.keeps_destOk hs.dest, h.keeps_bufOk hs, h.keeps_codecOk hs⟩

/-! ### Every event and every step -/

theorem dataOk_of_blank {p : Params} {root : Nat} (hp : p.wf = true) (h : s.data = .blank p root) : s.DataOk :=
  ⟨destOk_of_blank hp h, bufOk_of_blank h, codecOk_of_blank h⟩

theorem EventDid.keeps_dataOk (h : EventDid s t) (hs : s.DataOk) : t.DataOk :=
  h.keeps_of_data StageDid.keeps_dataOk
    (fun hs heq => ⟨hs.dest.of_data_eq heq, hs.buf.of_data_eq heq, hs.codec.of_data_eq hs.buf heq⟩)
    (fun hs => dataOk_of_blank hs.dest.params) hs

/-- The invariant is that of the life of a command, of IN_MEM and of the data. -/
theorem State.inv_iff (s : State) : s.Inv ↔ s.LifeOk ∧ s.InOk ∧ s.DataOk := by
  constructor
  · rintro ⟨hregs, hmems, hcodec⟩
    obtain ⟨hlife, hdest⟩ := s.regsOk_iff.1 hregs
    obtain ⟨hin, hbuf⟩ := s.memOk_iff.1 hmems
    exact ⟨hlife, hin, hdest, hbuf, hcodec⟩
  · rintro ⟨hlife, hin, hdest, hbuf, hcodec⟩
    exact ⟨s.regsOk_iff.2 ⟨hlife, hdest⟩, s.memOk_iff.2 ⟨hin, hbuf⟩, hcodec⟩

theorem EventDid.keeps_inv (h : EventDid s t) (hs : s.Inv) : t.Inv := by
  obtain ⟨hlife, hin, hdata⟩ := s.inv_iff.1 hs
  exact t.inv_iff.2 ⟨h.keeps_lifeOk hlife, h.keeps_inOk hin, h.keeps_dataOk hdata⟩

/-- Settles O60: every event keeps the invariant, whose parts about data every stage keeps. -/
theorem stepKeepsTheInvariant : Obligations.StepKeepsTheInvariant :=
  fun _ _ hs h => step_keeps (fun _ a hu => hu.withAgenda a) EventDid.keeps_inv hs h

theorem inv_resetOf {p : Params} (hp : p.wf = true) : (State.resetOf p).Inv :=
  (State.inv_iff _).2 ⟨lifeOk_of_noError (.inl rfl) rfl rfl (Nat.zero_le _), ⟨rfl, fun _ _ => rfl⟩,
    dataOk_of_blank hp rfl⟩

/-- Settles O58: the reset state holds nothing, and this hardware's parameters are legal. -/
theorem resetMeetsTheInvariant : Obligations.ResetMeetsTheInvariant :=
  ⟨fun _ hp => inv_resetOf hp, inv_resetOf (by decide)⟩

end Sys2Proof.Machine
end

section
/-! SUPPORT. Host accesses: which are admitted, what a step does that takes one, and that nothing else stops the
machine. -/

namespace Sys2Proof.Machine

/-! ### The address map outside the windows -/

theorem regionOf_reserved {a : Nat} (h : 0x1000 ≤ a ∧ a < 0x10000000 ∨ 0x50000000 ≤ a) : regionOf a = .reserved := by
  unfold regionOf
  obtain ⟨hlow, hlt⟩ | hhigh := h
  · rw [if_neg (by omega), if_pos hlt]
  · repeat rw [if_neg (by omega)]

theorem lt_of_regionOf_regPage {a off : Nat} (h : regionOf a = .regPage off) : a < 0x1000 := by
  unfold regionOf at h
  split_ifs at h
  assumption

theorem bounds_of_regionOf_inWin {a off : Nat} (h : regionOf a = .inWin off) : 0x10000000 ≤ a ∧ a < 0x20000000 := by
  unfold regionOf at h
  split_ifs at h
  omega

theorem regionOf_ne_regPage {a : Nat} (h : 0x1000 ≤ a) (off : Nat) : regionOf a ≠ .regPage off :=
  fun hreg => absurd (lt_of_regionOf_regPage hreg) (by omega)

/-! ### What is admitted -/

/-- The machine's check is R213's condition on the address alone. -/
theorem admitted_iff (addr : Word) (size : Nat) : admitted addr size = true ↔ AccessAdmitted addr size := by
  unfold admitted AccessAdmitted
  split
  next off hreg =>
    have hpage := lt_of_regionOf_regPage hreg
    simp only [Bool.and_eq_true, decide_eq_true_eq]
    tauto
  next hreg =>
    have hpage : ¬addr.toNat < 0x1000 := fun hlt => hreg _ (regionOf_regPage hlt)
    simp only [Bool.and_eq_true, decide_eq_true_eq]
    tauto

/-- No admitted access reaches across a multiple of 4. -/
theorem AccessAdmitted.end_le {addr : Word} {size n : Nat} (h : AccessAdmitted addr size) (hlt : addr.toNat < 4 * n) :
    addr.toNat + size ≤ 4 * n := by
  obtain ⟨-, rfl | rfl | rfl, halign⟩ := h <;> omega

theorem AccessAdmitted.size_le {addr : Word} {size : Nat} (h : AccessAdmitted addr size) : size ≤ 4 := by
  obtain ⟨-, rfl | rfl | rfl, -⟩ := h <;> omega

/-! ### Reads and writes on the bus -/

variable {s : State} {addr v : Word} {size : Nat}

theorem busRead_of_admitted (h : AccessAdmitted addr size) :
    busRead s addr size = .next { s with rdata := readValue s addr size, draws := s.draws + 1 } :=
  if_pos ((admitted_iff addr size).2 h)

theorem busWrite_of_regPage (h : AccessAdmitted addr size) (hpage : addr.toNat < 0x1000) :
    busWrite s addr size v = .next (regWrite s addr.toNat v) := by
  simp [busWrite, (admitted_iff addr size).2 h, regionOf_regPage hpage]

theorem busWrite_of_not_regPage (h : AccessAdmitted addr size) (hpage : 0x1000 ≤ addr.toNat) :
    busWrite s addr size v = .next (bytesWrite s addr.toNat v size) := by
  rw [busWrite, if_pos ((admitted_iff addr size).2 h)]
  split
  · exact absurd ‹_› (regionOf_ne_regPage hpage _)
  · rfl

theorem busAccess_of_admitted {a : Access} (h : Admitted a) : ∃ t, busAccess s a = .next t := by
  cases a with
  | read addr size => exact ⟨_, busRead_of_admitted h⟩
  | write addr size v =>
    obtain hpage | hpage := Nat.lt_or_ge addr.toNat 0x1000
    · exact ⟨_, busWrite_of_regPage h hpage⟩
    · exact ⟨_, busWrite_of_not_regPage h hpage⟩

theorem busAccess_of_not_admitted {a : Access} (h : ¬Admitted a) :
    busAccess s a = .refused (.accessNotAdmitted a) := by
  cases a with
  | read addr size => exact if_neg (mt (admitted_iff addr size).1 h)
  | write addr size v => exact if_neg (mt (admitted_iff addr size).1 h)

/-! ### Steps that take a host access -/

variable {rest : List Event}

theorem step_host {a : Access} (h : s.agenda = .host a :: rest) : step s = busAccess { s with agenda := rest } a := by
  simp [step, h]

/-- What a read gives does not depend on the events still to happen. -/
theorem readValue_withAgenda (s : State) (rest : List Event) (addr : Word) (size : Nat) :
    readValue { s with agenda := rest } addr size = readValue s addr size := rfl

/-- A step that takes an admitted read returns its value and changes nothing of the core (20_memory.md R215). -/
theorem step_read (h : s.agenda = .host (.read addr size) :: rest) (hadm : AccessAdmitted addr size) :
    step s = .next { s with agenda := rest, rdata := readValue s addr size, draws := s.draws + 1 } := by
  rw [step_host h, busAccess, busRead_of_admitted hadm, readValue_withAgenda]

/-- A step that takes an admitted write outside the register page stores bytes through the windows. -/
theorem step_bytesWrite (h : s.agenda = .host (.write addr size v) :: rest) (hadm : AccessAdmitted addr size)
    (hpage : 0x1000 ≤ addr.toNat) :
    step s = .next (bytesWrite { s with agenda := rest } addr.toNat v size) :=
  (step_host h).trans (busWrite_of_not_regPage hadm hpage)

theorem engineTurn_next (s : State) : ∃ t, engineTurn s = .next t := by
  obtain ⟨-, h⟩ | ⟨i, -, h⟩ := engineTurn_cases s <;> exact ⟨_, h⟩

/-- Settles O5: the engine's turn and a reset answer a next state, and so does the bus exactly on what R213 admits. -/
theorem stopsExactlyOnAccessesNotAdmitted : Obligations.StopsExactlyOnAccessesNotAdmitted := by
  refine fun s => ⟨fun hadm => ?_, fun a rest hag hnot => (step_host hag).trans (busAccess_of_not_admitted hnot)⟩
  cases hag : s.agenda with
  | nil => simpa [step, hag] using engineTurn_next s
  | cons e rest =>
    cases e with
    | host a => rw [step_host hag]; exact busAccess_of_admitted (hadm a rest hag)
    | engine => simpa [step, hag] using engineTurn_next { s with agenda := rest }
    | hwReset => exact ⟨State.resetCore { s with agenda := rest }, by simp [step, hag]⟩

end Sys2Proof.Machine
end

section
/-! SUPPORT. Little-endian integers: the bytes of an integer and the integer of its bytes (20_memory.md R210). -/

namespace Sys2Proof.Machine

theorem toNat_wordByte (v : Word) (k : Nat) : (wordByte v k).toNat = v.toNat / 256 ^ k % 256 := by
  rw [wordByte, BitVec.extractLsb'_toNat, Nat.shiftRight_eq_div_pow, Nat.pow_mul]

theorem leValue_append_singleton (l : List Byte) (b : Byte) :
    leValue (l ++ [b]) = leValue l + 256 ^ l.length * b.toNat := by
  induction l with
  | nil => simp [leValue]
  | cons c l ih =>
    simp only [List.cons_append, leValue, ih, List.length_cons, Nat.pow_succ]
    ring

theorem leValue_lt (l : List Byte) : leValue l < 256 ^ l.length := by
  induction l with
  | nil => simp [leValue]
  | cons b l ih =>
    have hb := b.isLt
    simp only [leValue, List.length_cons, Nat.pow_succ]
    omega

/-- Each byte of the integer that bytes spell is the one in its place. -/
theorem leValue_div_mod (l : List Byte) {j : Nat} (hj : j < l.length) : leValue l / 256 ^ j % 256 = l[j].toNat := by
  induction l generalizing j with
  | nil => cases hj
  | cons b l ih =>
    have hb := b.isLt
    cases j with
    | zero => simp only [leValue, Nat.pow_zero, Nat.div_one, List.getElem_cons_zero]; omega
    | succ j =>
      have hrest : leValue (b :: l) / 256 = leValue l := by simp only [leValue]; omega
      rw [Nat.pow_succ', ← Nat.div_div_eq_div_mul, hrest, ih (Nat.lt_of_succ_lt_succ hj), List.getElem_cons_succ]

/-- The low bytes of a bus word, put together again, are its low bits. -/
theorem leValue_wordBytes (v : Word) (n : Nat) : leValue ((List.range n).map (wordByte v)) = v.toNat % 2 ^ (8 * n) := by
  rw [Nat.pow_mul]
  induction n with
  | zero => simp [leValue, Nat.mod_one]
  | succ n ih =>
    rw [List.range_succ, List.map_append, List.map_singleton, leValue_append_singleton, ih, List.length_map,
      List.length_range, toNat_wordByte, ← Nat.mod_pow_succ]

/-- The bytes of a bus word that was put together from at most four of them. -/
theorem wordByte_ofNat_leValue {l : List Byte} (hlen : l.length ≤ 4) {j : Nat} (hj : j < l.length) :
    wordByte (BitVec.ofNat 32 (leValue l)) j = l[j] := by
  have hlt : leValue l < 2 ^ 32 := (leValue_lt l).trans_le (Nat.pow_le_pow_right (by decide) hlen)
  rw [← BitVec.toNat_inj, toNat_wordByte, BitVec.toNat_ofNat, Nat.mod_eq_of_lt hlt, leValue_div_mod l hj]

end Sys2Proof.Machine
end

section
/-! SUPPORT. Writes to the windows and to the places that take none: the IN window stores its bytes, and every other
place ignores them. -/

namespace Sys2Proof.Machine

variable {s : State} {v : Word}

/-- No place outside the IN window stores a byte. -/
theorem bytesWrite_outside {a n : Nat} (h : a + n ≤ 0x10000000 ∨ 0x20000000 ≤ a) : bytesWrite s a v n = s := by
  induction n with
  | zero => rfl
  | succ n ih =>
    rw [bytesWrite, ih (by omega), byteWrite]
    split
    · have hwin := bounds_of_regionOf_inWin ‹_›
      omega
    · rfl

/-- Settles O50: beside CTRL, CMD, STATUS and IN_LEN no register takes a write, and beside the IN window no place takes
a byte. -/
theorem writesToReadOnlyLocationsAreIgnored : Obligations.WritesToReadOnlyLocationsAreIgnored := by
  intro s addr v size rest hag hadm hctrl hcmd hstatus hinLen hplace
  obtain hpage | hpage := Nat.lt_or_ge addr.toNat 0x1000
  · obtain ⟨hreg, -, halign⟩ := hadm
    obtain rfl := hreg hpage
    rw [step_regWrite hag hpage halign]
    obtain ⟨h, -⟩ | ⟨h, -⟩ | ⟨h, -⟩ | ⟨h, -⟩ | ⟨-, -, -, -, h⟩ := regWrite_cases { s with agenda := rest } addr.toNat v
    · exact absurd (BitVec.eq_of_toNat_eq h) hctrl
    · exact absurd (BitVec.eq_of_toNat_eq h) hcmd
    · exact absurd (BitVec.eq_of_toNat_eq h) hstatus
    · exact absurd (BitVec.eq_of_toNat_eq h) hinLen
    · rw [h]
  · have hend : addr.toNat < 0x10000000 → addr.toNat + size ≤ 0x10000000 := hadm.end_le (n := 0x4000000)
    rw [step_bytesWrite hag hadm hpage, bytesWrite_outside (hplace.imp_left hend)]

@[simp] theorem bytesWrite_busy (s : State) (a : Nat) (v : Word) (n : Nat) : (bytesWrite s a v n).busy = s.busy :=
  (congrArg State.busy (bytesWrite_eq s a v n)).trans rfl

@[simp] theorem bytesWrite_params (s : State) (a : Nat) (v : Word) (n : Nat) :
    (bytesWrite s a v n).params = s.params :=
  (congrArg State.params (bytesWrite_eq s a v n)).trans rfl

theorem byteWrite_inWin {off : Nat} (h : off < 0x10000000) (b : Byte) :
    byteWrite s (0x10000000 + off) b = inWrite s off b := by
  simp [byteWrite, regionOf_inWin (a := 0x10000000 + off) (by omega) (by omega)]

/-- Byte by byte, what IN_MEM reads as after a write to the IN window. -/
theorem inByte_bytesWrite (hidle : s.busy = false) {off n : Nat} (hend : off + n ≤ 0x10000000) (i : Nat) :
    (bytesWrite s (0x10000000 + off) v n).inByte i =
      if off ≤ i ∧ i < off + n ∧ i < s.params.inCap then wordByte v (i - off) else s.inByte i := by
  induction n with
  | zero => rw [if_neg (by omega)]; rfl
  | succ n ih =>
    rw [bytesWrite, Nat.add_assoc, byteWrite_inWin (by omega), inByte_inWrite, ih (by omega), bytesWrite_busy,
      bytesWrite_params]
    by_cases hi : i = off + n
    · subst hi
      by_cases hcap : off + n < s.params.inCap
      · rw [if_pos ⟨hidle, hcap, rfl⟩, if_pos (by omega), Nat.add_sub_cancel_left]
      · rw [if_neg (by omega), if_neg (by omega), if_neg (by omega)]
    · rw [if_neg (by omega)]
      exact if_congr (by omega) rfl rfl

end Sys2Proof.Machine
end

section
/-! SUPPORT. Reads of the windows: the bytes of the value, and what each window gives at an offset. -/

namespace Sys2Proof.Machine

variable {s : State}

/-! ### The bytes of a value -/

theorem readValue_of_not_regPage {addr : Word} (hpage : 0x1000 ≤ addr.toNat) (size : Nat) :
    readValue s addr size =
      BitVec.ofNat 32 (leValue ((List.range size).map fun k => byteRead s (addr.toNat + k) k)) := by
  unfold readValue
  split
  · exact absurd ‹_› (regionOf_ne_regPage hpage _)
  · rfl

/-- Byte `j` of a value read is the byte found `j` places on. -/
theorem wordByte_readValue {addr : Word} (hpage : 0x1000 ≤ addr.toNat) {size j : Nat} (hsize : size ≤ 4)
    (hj : j < size) : wordByte (readValue s addr size) j = byteRead s (addr.toNat + j) j := by
  rw [readValue_of_not_regPage hpage, wordByte_ofNat_leValue (by simpa using hsize) (by simpa using hj)]
  simp

/-- The bytes of a value above the size of its access are 0 (20_memory.md R211). -/
theorem toNat_readValue_lt {addr : Word} {size : Nat} (hadm : AccessAdmitted addr size) :
    (readValue s addr size).toNat < 2 ^ (8 * size) := by
  obtain hpage | hpage := Nat.lt_or_ge addr.toNat 0x1000
  · rw [hadm.1 hpage]
    exact BitVec.isLt _
  · rw [readValue_of_not_regPage hpage, BitVec.toNat_ofNat, Nat.pow_mul]
    have hlt := leValue_lt ((List.range size).map fun k => byteRead s (addr.toNat + k) k)
    rw [List.length_map, List.length_range] at hlt
    exact (Nat.mod_le _ _).trans_lt hlt

/-! ### The bytes of each window -/

section Window

variable {off : Nat} (hoff : off < 0x10000000) (lane : Nat)
include hoff

theorem byteRead_inWin :
    byteRead s (0x10000000 + off) lane = if s.params.inCap ≤ off then 0#8 else s.inByte off := by
  simp [byteRead, regionOf_inWin (a := 0x10000000 + off) (by omega) (by omega)]

theorem byteRead_outWin :
    byteRead s (0x20000000 + off) lane =
      windowByte s s.params.outCap s.outLen.toNat (Sparse.read s.outMem off) off lane := by
  simp [byteRead, regionOf_outWin (a := 0x20000000 + off) (by omega) (by omega)]

theorem byteRead_tokWin :
    byteRead s (0x30000000 + off) lane =
      windowByte s (2 * s.params.tokCap) (2 * s.tokLen.toNat) (tokHeld s off) off lane := by
  simp [byteRead, regionOf_tokWin (a := 0x30000000 + off) (by omega) (by omega)]

theorem byteRead_pkWin :
    byteRead s (0x40000000 + off) lane =
      windowByte s s.params.pkCap s.pkLen.toNat (Sparse.read s.pkMem off) off lane := by
  simp [byteRead, regionOf_pkWin (a := 0x40000000 + off) (by omega) (by omega)]

end Window

theorem byteRead_reserved {a : Nat} (h : 0x1000 ≤ a ∧ a < 0x10000000 ∨ 0x50000000 ≤ a) (lane : Nat) :
    byteRead s a lane = 0#8 := by
  simp [byteRead, regionOf_reserved h]

theorem windowByte_beyond {cap off : Nat} (h : cap ≤ off) (len : Nat) (held : Option Byte) (lane : Nat) :
    windowByte s cap len held off lane = 0#8 := if_pos h

/-- While IDLE, a byte below the length is what the buffer holds. -/
theorem windowByte_held (hidle : s.busy = false) {cap len off : Nat} (hcap : len ≤ cap) (hoff : off < len) (b : Byte)
    (lane : Nat) : windowByte s cap len (some b) off lane = b := by
  rw [windowByte, if_neg (by omega), hidle, if_neg (by decide), if_neg (by omega), Option.getD_some]

/-- Settles O52: each window's bytes are 0 from its capacity on, and the reserved ranges' everywhere. -/
theorem bytesBeyondCapacityReadZero : Obligations.BytesBeyondCapacityReadZero := by
  intro s off lane hoff
  refine ⟨fun hcap => ?inp, fun hcap => ?out, fun hcap => ?tok, fun hcap => ?pk, fun hlow => ?low, fun a hhigh => ?high⟩
  case inp => exact (byteRead_inWin hoff lane).trans (if_pos hcap)
  case out => exact (byteRead_outWin hoff lane).trans (windowByte_beyond hcap _ _ _)
  case tok => exact (byteRead_tokWin hoff lane).trans (windowByte_beyond hcap _ _ _)
  case pk => exact (byteRead_pkWin hoff lane).trans (windowByte_beyond hcap _ _ _)
  case low => exact byteRead_reserved (.inl ⟨hlow, hoff⟩) lane
  case high => exact byteRead_reserved (.inr hhigh) lane

/-! ### Reading back what was written to the IN window -/

/-- A read of the IN window, inside the capacity, of bytes that are those of `v`. -/
theorem readValue_inWin {addr v : Word} {size off : Nat} (haddr : addr.toNat = 0x10000000 + off)
    (hend : off + size ≤ 0x10000000) (hcap : off + size ≤ s.params.inCap)
    (hbytes : ∀ k, k < size → s.inByte (off + k) = wordByte v k) :
    readValue s addr size = BitVec.ofNat 32 (v.toNat % 2 ^ (8 * size)) := by
  have hread : ∀ k ∈ List.range size, byteRead s (addr.toNat + k) k = wordByte v k := by
    intro k hk
    have hk := List.mem_range.1 hk
    rw [haddr, Nat.add_assoc, byteRead_inWin (by omega), if_neg (by omega), hbytes k hk]
  rw [readValue_of_not_regPage (by omega), List.map_congr_left hread, leValue_wordBytes]

/-- Settles O51: the step is the bytes' store, which is known byte by byte. -/
theorem inWindowWriteThenRead : Obligations.InWindowWriteThenRead := by
  intro s addr v size off rest hidle hag hadm haddr hend
  have hbytes := inByte_bytesWrite (s := { s with agenda := rest }) (v := v) hidle hend
  refine ⟨_, step_bytesWrite hag hadm (by omega), bytesWrite_eq _ _ _ _, ?_, fun hcap => ?_⟩
  · rw [haddr]
    exact hbytes
  · refine readValue_inWin haddr hend (by simpa using hcap) fun k hk => ?_
    rw [haddr, hbytes, if_pos (by simp only; omega), Nat.add_sub_cancel_left]

/-! ### The results in the OUT, TOK and PK windows -/

theorem token_lt (s : State) (k : Nat) : s.token k < 65536 := BitVec.isLt _

/-- TOK_MEM holds each listed token as two bytes, low byte first (20_memory.md R205). -/
theorem tokHeld_token (hmem : s.MemOk) {k half : Nat} (hhalf : half < 2) (hk : k < s.tokLen.toNat) :
    tokHeld s (2 * k + half) = some (BitVec.ofNat 8 (s.token k / 256 ^ half)) := by
  obtain ⟨e, he⟩ := Option.isSome_iff_exists.1 ((hmem.tokListed k).trans (decide_eq_true hk))
  have htoken : s.token k = e.toNat := by rw [State.token, he, Option.getD_some]
  rw [tokHeld, show (2 * k + half) / 2 = k by omega, he, htoken, Option.map_some]
  obtain rfl | rfl : half = 0 ∨ half = 1 := by omega
  · rw [if_pos (by omega)]
    exact congrArg some (BitVec.eq_of_toNat_eq (by simp))
  · rw [if_neg (by omega)]
    exact congrArg some (BitVec.eq_of_toNat_eq (by simp [Nat.shiftRight_eq_div_pow]))

section Results

variable (hidle : s.busy = false) (hregs : s.RegsOk) (hmem : s.MemOk)
include hidle hregs hmem

theorem byteRead_outByte {k : Nat} (hk : k < s.outLen.toNat) (lane : Nat) :
    byteRead s (0x20000000 + k) lane = s.outByte k := by
  obtain ⟨b, hb⟩ := Option.isSome_iff_exists.1 ((hmem.outListed k).trans (decide_eq_true hk))
  have hcap := hregs.outLen
  have hbounds := Params.bounds hregs.params
  rw [byteRead_outWin (by omega), hb, windowByte_held hidle hcap hk, State.outByte, hb, Option.getD_some]

theorem byteRead_pkByte {k : Nat} (hk : k < s.pkLen.toNat) (lane : Nat) :
    byteRead s (0x40000000 + k) lane = s.pkByte k := by
  obtain ⟨b, hb⟩ := Option.isSome_iff_exists.1 ((hmem.pkListed k).trans (decide_eq_true hk))
  have hcap := hregs.pkLen
  have hbounds := Params.bounds hregs.params
  rw [byteRead_pkWin (by omega), hb, windowByte_held hidle hcap hk, State.pkByte, hb, Option.getD_some]

/-- Byte `half` of token `k`, low byte first (20_memory.md R205). -/
theorem byteRead_token {k half : Nat} (hhalf : half < 2) (hk : k < s.tokLen.toNat) (lane : Nat) :
    byteRead s (0x30000000 + (2 * k + half)) lane = BitVec.ofNat 8 (s.token k / 256 ^ half) := by
  have hcap := hregs.tokLen
  have hbounds := Params.bounds hregs.params
  rw [byteRead_tokWin (by omega), tokHeld_token hmem hhalf hk, windowByte_held hidle (by omega) (by omega)]

variable {addr : Word} {size k : Nat} (hsize : size ≤ 4)
include hsize

theorem wordByte_readValue_out (haddr : addr.toNat = 0x20000000 + k) {j : Nat} (hj : j < size)
    (hk : k + j < s.outLen.toNat) : wordByte (readValue s addr size) j = s.outByte (k + j) := by
  rw [wordByte_readValue (by omega) hsize hj, haddr, Nat.add_assoc, byteRead_outByte hidle hregs hmem hk]

theorem wordByte_readValue_pk (haddr : addr.toNat = 0x40000000 + k) {j : Nat} (hj : j < size)
    (hk : k + j < s.pkLen.toNat) : wordByte (readValue s addr size) j = s.pkByte (k + j) := by
  rw [wordByte_readValue (by omega) hsize hj, haddr, Nat.add_assoc, byteRead_pkByte hidle hregs hmem hk]

theorem wordByte_readValue_tok {half j : Nat} (haddr : addr.toNat + j = 0x30000000 + (2 * k + half)) (hhalf : half < 2)
    (hj : j < size) (hk : k < s.tokLen.toNat) :
    wordByte (readValue s addr size) j = BitVec.ofNat 8 (s.token k / 256 ^ half) := by
  rw [wordByte_readValue (by omega) hsize hj, haddr, byteRead_token hidle hregs hmem hhalf hk]

/-- The low byte of a token and its high byte, next to each other in a value, are the token. -/
theorem toNat_readValue_tok {j : Nat} (haddr : addr.toNat + j = 0x30000000 + 2 * k) (hj : j + 1 < size)
    (hk : k < s.tokLen.toNat) : (readValue s addr size).toNat / 256 ^ j % 65536 = s.token k := by
  have hlow := congrArg BitVec.toNat
    (wordByte_readValue_tok hidle hregs hmem hsize (half := 0) haddr (by decide) (by omega) hk)
  have hnext : addr.toNat + (j + 1) = 0x30000000 + (2 * k + 1) := by omega
  have hhigh := congrArg BitVec.toNat
    (wordByte_readValue_tok hidle hregs hmem hsize (half := 1) hnext (by decide) hj hk)
  rw [toNat_wordByte, BitVec.toNat_ofNat] at hlow hhigh
  rw [Nat.pow_succ, ← Nat.div_div_eq_div_mul] at hhigh
  have hlt := token_lt s k
  omega

end Results

/-- Settles O54: the value's bytes are those of the buffers, and two neighbouring bytes make a token. -/
theorem windowReadsShowTheResults : Obligations.WindowReadsShowTheResults := by
  intro s addr size k rest _ hregs hmem hidle hag hadm
  have hsize := hadm.size_le
  have hlt := toNat_readValue_lt (s := s) hadm
  refine ⟨_, step_read hag hadm, hlt, fun haddr j hj hk => ?out, fun haddr j hj hk => ?pk,
    fun j haddr hj hk => ?low, fun j haddr hj hk => ?high, fun haddr htwo hk => ?one, fun haddr hfour hk => ?two⟩
  case out => exact wordByte_readValue_out hidle hregs hmem hsize haddr hj hk
  case pk => exact wordByte_readValue_pk hidle hregs hmem hsize haddr hj hk
  case low =>
    have hbyte := wordByte_readValue_tok (half := 0) hidle hregs hmem hsize haddr (by decide) hj hk
    rw [Nat.pow_zero, Nat.div_one] at hbyte
    exact hbyte.trans (BitVec.eq_of_toNat_eq (by simp))
  case high => exact wordByte_readValue_tok (half := 1) hidle hregs hmem hsize haddr (by decide) hj hk
  case one =>
    subst htwo
    have htok := toNat_readValue_tok (j := 0) hidle hregs hmem hsize haddr (by decide) hk
    omega
  case two =>
    subst hfour
    have hlow : addr.toNat + 0 = 0x30000000 + 2 * (2 * k) := by omega
    have hhigh : addr.toNat + 2 = 0x30000000 + 2 * (2 * k + 1) := by omega
    have hfirst := toNat_readValue_tok hidle hregs hmem hsize hlow (by decide) (by omega)
    have hsecond := toNat_readValue_tok hidle hregs hmem hsize hhigh (by decide) hk
    omega

end Sys2Proof.Machine
end

section
/-! SUPPORT. Command words: the legal ones are the ten that commands encode to, and every other one is illegal
(30_encoding.md R300 to R302). -/

namespace Sys2Proof

/-- The ten commands, in the order of the opcode map (30_encoding.md R301). -/
def commands : List Instr :=
  [.compress, .decompress, .lzwEncode, .lzwDecode, .hufBuild, .hufCodegen, .pack, .unpack, .serialize, .parse]

theorem mem_commands (i : Instr) : i ∈ commands := by cases i <;> decide

@[simp] theorem rsvdField_encode (i : Instr) : rsvdField (encode i) = 0#24 := BitVec.extractLsb'_append_eq_left

@[simp] theorem opcodeField_encode (i : Instr) : opcodeField (encode i) = opcode i := BitVec.extractLsb'_append_eq_right

/-- A word is its two fields side by side (30_encoding.md R300). -/
theorem rsvdField_append_opcodeField (w : Word) : rsvdField w ++ opcodeField w = w :=
  (BitVec.extractLsb'_append_extractLsb'_eq_extractLsb' rfl).trans BitVec.extractLsb'_eq_self

theorem eq_encode_iff (w : Word) (i : Instr) : w = encode i ↔ rsvdField w = 0#24 ∧ opcodeField w = opcode i := by
  constructor
  · rintro rfl
    exact ⟨rsvdField_encode i, opcodeField_encode i⟩
  · rintro ⟨hrsvd, hop⟩
    rw [← rsvdField_append_opcodeField w, hrsvd, hop, encode]

theorem decodeOpcode_opcode (i : Instr) : decodeOpcode (opcode i) = some i := by cases i <;> rfl

theorem opcode_of_decodeOpcode {op : Byte} {i : Instr} (h : decodeOpcode op = some i) : opcode i = op := by
  unfold decodeOpcode at h
  split_ifs at h <;> cases h <;> exact Eq.symm ‹_›

@[simp] theorem decode_encode (i : Instr) : decode (encode i) = .cmd i := by
  simp [decode, decodeOpcode_opcode]

/-- The decoder answers an illegal word's OPCODE byte (30_encoding.md R302, R322). -/
theorem decode_of_ne_encode {w : Word} (h : ∀ i, w ≠ encode i) : decode w = .illegal (opcodeField w) := by
  unfold decode
  split
  next hrsvd =>
    split
    next i hop => exact absurd ((eq_encode_iff w i).2 ⟨hrsvd, (opcode_of_decodeOpcode hop).symm⟩) (h i)
    next => rfl
  next => rfl

/-- A word is some command's exactly when RSVD is 0 and OPCODE is in the table (30_encoding.md R302). -/
theorem isCommand_iff (w : Word) :
    (rsvdField w = 0#24 ∧ opcodeField w ∈ commands.map opcode) ↔ ∃ i, w = encode i := by
  simp only [eq_encode_iff, List.mem_map, mem_commands, true_and, exists_and_left, eq_comm]

@[simp] theorem tableWord_toNat (w : Word) : tableWord 32 w.toNat = w := by
  rw [tableWord, Nat.mod_eq_of_lt w.isLt, BitVec.ofNat_toNat, BitVec.setWidth_eq]

end Sys2Proof

namespace Sys2Proof.Machine

theorem writeCmd_of_illegal {s : State} {v : Word} {op : Byte} (hidle : s.busy = false) (h : decode v = .illegal op) :
    writeCmd s v = s.badCommand op := by
  simp [writeCmd, hidle, h]

/-- A step that takes a write of CMD. -/
theorem step_cmdWrite {s : State} {v : Word} {rest : List Event} (h : s.agenda = .host (.write 0x008#32 4 v) :: rest) :
    step s = .next (writeCmd { s with agenda := rest } v) := step_regWrite h (by decide) (by decide)

/-- Settles O1: each word of the map is the one its command encodes to. -/
theorem opcodeMapWords : Obligations.OpcodeMapWords :=
  ⟨⟨decode_encode .compress, rfl⟩, ⟨decode_encode .decompress, rfl⟩, ⟨decode_encode .lzwEncode, rfl⟩,
    ⟨decode_encode .lzwDecode, rfl⟩, ⟨decode_encode .hufBuild, rfl⟩, ⟨decode_encode .hufCodegen, rfl⟩,
    ⟨decode_encode .pack, rfl⟩, ⟨decode_encode .unpack, rfl⟩, ⟨decode_encode .serialize, rfl⟩,
    ⟨decode_encode .parse, rfl⟩⟩

/-- Settles O2: the legal words are those the commands encode to, and the decoder tells them from all others. -/
theorem legalWordsAreTheTenOpcodes : Obligations.LegalWordsAreTheTenOpcodes := by
  refine fun w => ⟨fun hlegal => ?legal, fun hnot => ?illegal⟩
  case legal =>
    obtain ⟨i, rfl⟩ := (isCommand_iff w).1 hlegal
    exact ⟨i, decode_encode i, (opcodeField_encode i).symm, rfl, by simp [decodeTableWord]⟩
  case illegal =>
    have hdec : decode w = .illegal (opcodeField w) :=
      decode_of_ne_encode fun i hi => hnot ((isCommand_iff w).2 ⟨i, hi⟩)
    refine ⟨hdec, by simp [decodeTableWord, hdec], fun s rest hag hidle => ?_⟩
    have hstep := (step_cmdWrite hag).trans (congrArg _ (writeCmd_of_illegal hidle hdec))
    exact ⟨_, hstep, hidle, rfl, rfl⟩

end Sys2Proof.Machine
end

section
/-! SUPPORT. The causes of errors: which each command's function can raise, and that with the *requires* check they are
the rows of 60_exceptions.md R900, R901, R903 and R904. -/

namespace Sys2Proof.Machine

/-- What a command's own function can raise, its *requires* check and a composite's stages apart: the OP columns of
60_exceptions.md R900, R901 and R903, and PACK's token without a code (42_bitpack.md R602). -/
def raised : Instr → List Cause
  | .compress => [.emptyInput, .capacity .inp]
  | .decompress => [.capacity .inp]
  | .lzwEncode => [.capacity .inp, .capacity .tok]
  | .lzwDecode => [.corrupt .emptyTokens, .corrupt .badFirst, .corrupt .badCode, .capacity .out]
  | .hufBuild => [.emptyInput]
  | .hufCodegen => []
  | .pack => [.noCode, .capacity .pk]
  | .unpack => [.corrupt .unknownCode, .corrupt .midWalk, .corrupt .padNonzero, .capacity .tok]
  | .serialize => [.capacity .out]
  | .parse =>
    [.capacity .inp, .corrupt .truncated, .corrupt .badPad, .corrupt .badTag, .corrupt .badSymbol, .corrupt .dupSymbol,
      .corrupt .treeShape, .corrupt .lenMismatch, .capacity .pk]

/-! ### The LZW encoder and decoder -/

theorem encodeBytes_error {ceiling tokCap : Nat} {e : EncState} {b : List Byte} {c : Cause}
    (h : encodeBytes ceiling tokCap e b = .error c) : c = .capacity .tok := by
  induction b generalizing e with
  | nil => cases h
  | cons x xs ih =>
    unfold encodeBytes at h
    split at h
    next hx => cases h; exact (codeEmit_error (encodeByte_error hx).2).1
    next => exact ih h

theorem lzwEncode_error {ceiling tokCap : Nat} {b : List Byte} {c : Cause}
    (h : lzwEncode ceiling tokCap b = .error c) : c = .capacity .tok := by
  unfold lzwEncode at h
  split at h
  next hbytes => cases h; exact encodeBytes_error hbytes
  next =>
    split at h
    next hflush => cases h; exact (codeEmit_error hflush).1
    next => cases h

theorem decodeToken_error {ceiling outCap : Nat} {d : DecState} {k : Nat} {c : Cause}
    (h : decodeToken ceiling outCap d k = .error c) : c ∈ raised .lzwDecode := by
  unfold decodeToken at h
  split at h
  next hclass => cases h; rw [(classify_error hclass).1]; decide
  next =>
    split at h
    next => cases h; decide
    next => cases h

theorem decodeTokens_error {ceiling outCap : Nat} {d : DecState} {ks : List Nat} {c : Cause}
    (h : decodeTokens ceiling outCap d ks = .error c) : c ∈ raised .lzwDecode := by
  induction ks generalizing d with
  | nil => cases h
  | cons k ks ih =>
    unfold decodeTokens at h
    split at h
    next hk => cases h; exact decodeToken_error hk
    next => exact ih h

theorem lzwDecode_error {ceiling outCap : Nat} {ks : List Nat} {c : Cause}
    (h : lzwDecode ceiling outCap ks = .error c) : c ∈ raised .lzwDecode := by
  unfold lzwDecode at h
  split at h
  next => cases h; decide
  next =>
    split_ifs at h
    · cases h; decide
    · cases h; decide
    · split at h
      next hks => cases h; exact decodeTokens_error hks
      next => cases h

/-! ### The bit packer and unpacker -/

theorem packTokens_error {codes : Sparse Bits} {pkCap : Nat} {t : List Nat} {c : Cause}
    (h : packTokens codes pkCap t = .error c) : c ∈ raised .pack := by
  unfold packTokens at h
  split at h
  next hbits => cases h; rw [codeBits_error hbits]; decide
  next =>
    split at h
    next => cases h; decide
    next => cases h

theorem emitToken_error {tokCap : Nat} {out : List Nat} {sym : Nat} {c : Cause}
    (h : emitToken tokCap out sym = .error c) : c = .capacity .tok := by
  unfold emitToken at h
  split at h
  · cases h; rfl
  · cases h

theorem walkBits_error {tokCap : Nat} {root cur : HufTree} {out : List Nat} {b : Bits} {c : Cause}
    (h : walkBits tokCap root cur out b = .error c) : c ∈ raised .unpack := by
  fun_induction walkBits tokCap root cur out b with
  | case1 => cases h
  | case2 | case3 => cases h; decide
  | case4 | case6 => rename_i hemit; cases h; rw [emitToken_error hemit]; decide
  | case5 | case7 | case8 => rename_i ih; exact ih h

theorem unpackTokens_error {tokCap pad : Nat} {tree : HufTree} {pk : List Byte} {c : Cause}
    (h : unpackTokens tokCap tree pk pad = .error c) : c ∈ raised .unpack := by
  unfold unpackTokens at h
  simp only at h
  split at h
  next hwalk => cases h; exact walkBits_error hwalk
  next =>
    split at h
    next => cases h; decide
    next => cases h

/-! ### The serializer and parser -/

theorem serializeArtifact_error {outCap count pad : Nat} {tree : HufTree} {pk : List Byte} {c : Cause}
    (h : serializeArtifact outCap tree count pk pad = .error c) : c = .capacity .out := by
  unfold serializeArtifact at h
  simp only at h
  split at h
  · cases h; rfl
  · cases h

theorem takeLe_error_raised {n : Nat} {l : List Byte} {c : Cause} (h : takeLe n l = .error c) :
    c ∈ raised .parse := by
  rw [(takeLe_error h).1]
  decide

theorem parseNode_error {ceiling : Nat} {freq : Nat → BitVec 32} {p : ParseState} {c : Cause}
    (h : parseNode ceiling freq p = .error c) : c ∈ raised .parse := by
  unfold parseNode at h
  simp only at h
  split at h
  next => cases h; decide
  next =>
    split at h
    next htag => cases h; exact takeLe_error_raised htag
    next =>
      split_ifs at h
      · split at h
        next hsym => cases h; exact takeLe_error_raised hsym
        next =>
          split_ifs at h
          · cases h; decide
          · cases h; decide
      · cases h; decide

theorem parseNodes_error {ceiling : Nat} {freq : Nat → BitVec 32} {n : Nat} {p : ParseState} {c : Cause}
    (h : parseNodes ceiling freq n p = .error c) : c ∈ raised .parse := by
  induction n generalizing p with
  | zero => cases h
  | succ n ih =>
    unfold parseNodes at h
    split at h
    next hnode => cases h; exact parseNode_error hnode
    next => exact ih h

theorem parsePayload_error {pkCap pad : Nat} {l : List Byte} {c : Cause}
    (h : parsePayload pkCap pad l = .error c) : c ∈ raised .parse := by
  unfold parsePayload at h
  split at h
  next hlen => cases h; exact takeLe_error_raised hlen
  next => split_ifs at h <;> cases h <;> decide

theorem parseArtifact_error {params : Params} {freq : Nat → BitVec 32} {a : List Byte} {c : Cause}
    (h : parseArtifact params freq a = .error c) : c ∈ raised .parse := by
  unfold parseArtifact at h
  split at h
  next hpad => cases h; exact takeLe_error_raised hpad
  split_ifs at h
  · cases h; decide
  split at h
  next hcount => cases h; exact takeLe_error_raised hcount
  split_ifs at h
  · cases h; decide
  split at h
  next hnodes => cases h; exact parseNodes_error hnodes
  split_ifs at h
  · cases h; decide
  split at h
  next hpayload => cases h; exact parsePayload_error hpayload
  cases h

/-! ### Stages and commands -/

/-- An error of the tables: one that the function of its stage can raise, or a missing bit of the *requires* check. -/
inductive CmdError.Listed : CmdError → Prop where
  | own {op : Instr} {c : Cause} (h : c ∈ raised op) : CmdError.Listed ⟨c, op⟩
  | missing {op : Instr} {v : Valid} (h : ((requires op).missing v).isNone = false) :
      CmdError.Listed ⟨.sequence ((requires op).missing v), op⟩

/-- Each failure of `f` is one of the tables'. -/
def FailsListed (f : State → Except CmdError State) : Prop := ∀ s e, f s = .error e → e.Listed

theorem stage_failsListed {op : Instr} {body : State → Except Cause State}
    (hbody : ∀ s c, body s = .error c → c ∈ raised op) : FailsListed (stage op body) := by
  rintro s ⟨c, op'⟩ h
  obtain ⟨(rfl : op' = op), ⟨hmissing, (rfl : c = _)⟩ | ⟨-, hraised⟩⟩ := stage_error h
  · exact .missing hmissing
  · exact .own (hbody s c hraised)

theorem failsListed_lzwEncode : FailsListed stageLzwEncode := stage_failsListed fun s c h => by
  unfold lzwEncodeBody at h
  split at h
  next => cases h; decide
  next =>
    split at h
    next henc => cases h; rw [lzwEncode_error henc]; decide
    next => cases h

theorem failsListed_lzwDecode : FailsListed stageLzwDecode := stage_failsListed fun s c h => by
  unfold lzwDecodeBody at h
  split at h
  next hdec => cases h; exact lzwDecode_error hdec
  next => cases h

theorem failsListed_hufBuild : FailsListed stageHufBuild := stage_failsListed fun s c h => by
  unfold hufBuildBody at h
  split at h
  next => cases h; decide
  next => cases h

theorem failsListed_hufCodegen : FailsListed stageHufCodegen := stage_failsListed fun s c h => by cases h

theorem failsListed_pack : FailsListed stagePack := stage_failsListed fun s c h => by
  unfold packBody at h
  split at h
  next hpack => cases h; exact packTokens_error hpack
  next => cases h

theorem failsListed_unpack : FailsListed stageUnpack := stage_failsListed fun s c h => by
  unfold unpackBody at h
  split at h
  next hunpack => cases h; exact unpackTokens_error hunpack
  next => cases h

theorem failsListed_serialize : FailsListed stageSerialize := stage_failsListed fun s c h => by
  unfold serializeBody at h
  split at h
  next hser => cases h; rw [serializeArtifact_error hser]; decide
  next => cases h

theorem failsListed_parse : FailsListed stageParse := stage_failsListed fun s c h => by
  unfold parseBody at h
  split at h
  next => cases h; decide
  next =>
    split at h
    next hparse => cases h; exact parseArtifact_error hparse
    next => cases h

theorem runStages_failsListed {fs : List (State → Except CmdError State)} (hfs : ∀ f ∈ fs, FailsListed f) :
    FailsListed (runStages fs) := by
  induction fs with
  | nil => intro s e h; cases h
  | cons f fs ih =>
    obtain ⟨hf, hfs⟩ := List.forall_mem_cons.1 hfs
    intro s e h
    obtain hfirst | ⟨t, -, hrest⟩ := runStages_error h
    · exact hf s e hfirst
    · exact ih hfs t e hrest

theorem runCompress_failsListed : FailsListed runCompress := by
  intro s e h
  unfold runCompress at h
  split_ifs at h
  · cases h; exact .own (by decide)
  · cases h; exact .own (by decide)
  · refine runStages_failsListed ?_ s e h
    simp [failsListed_lzwEncode, failsListed_hufBuild, failsListed_hufCodegen, failsListed_pack, failsListed_serialize]

theorem runDecompress_failsListed : FailsListed runDecompress := by
  intro s e h
  unfold runDecompress at h
  split_ifs at h
  · cases h; exact .own (by decide)
  · refine runStages_failsListed ?_ s e h
    simp [failsListed_parse, failsListed_unpack, failsListed_lzwDecode]

/-- Each failure of a command is one of the tables' (44_pipeline.md R812). -/
theorem run_failsListed (i : Instr) : FailsListed (run i) := by
  cases i with
  | compress => exact runCompress_failsListed
  | decompress => exact runDecompress_failsListed
  | lzwEncode => exact failsListed_lzwEncode
  | lzwDecode => exact failsListed_lzwDecode
  | hufBuild => exact failsListed_hufBuild
  | hufCodegen => exact failsListed_hufCodegen
  | pack => exact failsListed_pack
  | unpack => exact failsListed_unpack
  | serialize => exact failsListed_serialize
  | parse => exact failsListed_parse

/-- Settles O8: a failure is one of its stage's own causes or of its *requires* check, and each of those is a row. -/
theorem errorsAreThoseOfTheTables : Obligations.ErrorsAreThoseOfTheTables := by
  intro i s t h hne
  obtain rfl := (exec_next_iff i s t).1 h
  obtain ⟨u, -, hok⟩ | ⟨e, hrun, hfail⟩ := s.complete_cases (run i s)
  · rw [hok] at hne
    exact absurd rfl hne
  rw [hfail, State.errorCompletion_error]
  have hlisted := run_failsListed i s e hrun
  clear hrun hfail hne h
  cases hlisted with
  | @own op cause hraised => revert cause; cases op <;> decide
  | @missing op v hmissing =>
    obtain ⟨tok, tree, codes, pk⟩ := v
    revert tok tree codes pk
    cases op <;> decide

end Sys2Proof.Machine
end

section
/-! SUPPORT. Artifacts: their length, and that little-endian integers read back (20_memory.md R210, 30_encoding.md
R330 to R333). -/

namespace Sys2Proof.Machine

@[simp] theorem leBytes_length (n v : Nat) : (leBytes n v).length = n := by
  induction n generalizing v with
  | zero => rfl
  | succ n ih => simp [leBytes, ih]

/-- The integer read back is the one written, as far as it fits its bytes. -/
theorem leValue_leBytes (n v : Nat) : leValue (leBytes n v) = v % 2 ^ (8 * n) := by
  rw [show 2 ^ (8 * n) = 256 ^ n from Nat.pow_mul 2 8 n]
  induction n generalizing v with
  | zero => simp [leBytes, leValue, Nat.mod_one]
  | succ n ih => rw [leBytes, leValue, ih, Nat.pow_succ', Nat.mod_mul, BitVec.toNat_ofNat]

/-- A leaf takes 3 bytes and an internal node one, of which there is one less (30_encoding.md R333). -/
theorem serTree_length_add_one (tr : HufTree) : (serTree tr).length + 1 = 4 * tr.symbols.length := by
  induction tr with
  | leaf sym => simp [serTree, HufTree.symbols]
  | node l r ihl ihr =>
    simp only [serTree, HufTree.symbols, List.length_cons, List.length_append]
    omega

theorem artifact_length (tr : HufTree) (count : Nat) (pk : List Byte) (pad : Nat) :
    (artifact tr count pk pad).length = 16 + (serTree tr).length + pk.length := by
  simp only [artifact, List.length_append, leBytes_length]
  omega

/-- Settles O35: each length is that of its parts, counted by the leaves. -/
theorem artifactLength : Obligations.ArtifactLength := by
  refine ⟨fun tr count pad pk => ?_, fun n v => ⟨leBytes_length n v, leValue_leBytes n v⟩⟩
  have hnodes := nodes_add_one tr
  have hbytes := serTree_length_add_one tr
  have hlen := artifact_length tr count pk pad
  omega

end Sys2Proof.Machine
end

section
/-! SUPPORT. Host programs: one lemma for each kind of turn that `WAIT` takes, and the three turns of its loop
(30_encoding.md R305, R306). -/

namespace Sys2Proof.Machine

theorem label_mem_hostLabels {prog : List HostLine} {l : Nat} (h : .label l ∈ prog) : l ∈ hostLabels prog := by
  induction prog with
  | nil => cases h
  | cons x rest ih =>
    obtain rfl | hrest := List.mem_cons.1 h
    · exact List.mem_cons_self
    · cases x with
      | label m => exact List.mem_cons_of_mem m (ih hrest)
      | wr | rd | bnz | bz => exact ih hrest

/-- A label that no line before it defines is found at its own line. -/
theorem labelLine_append {pre : List HostLine} {l : Nat} (post : List HostLine) (h : l ∉ hostLabels pre) :
    labelLine (pre ++ .label l :: post) l = some pre.length := by
  have hpre : pre.findIdx (fun x => decide (x = .label l)) = pre.length :=
    List.findIdx_eq_length_of_false fun x hx =>
      decide_eq_false fun heq => h (label_mem_hostLabels (heq ▸ hx))
  simp [labelLine, List.findIdx_append, hpre, List.findIdx_cons]

variable {prog : List HostLine} {h h' : HostCpu} {s s' : State} {n l : Nat} {mask v : Word}

/-- A turn of the host that goes on gives the next one the program, host and machine it left. -/
theorem runHost_hostTurn (turns : List Bool) (hturn : hostTurn prog h s = .next h' s') :
    runHost prog (true :: turns) h s = runHost prog turns h' s' := by
  simp [runHost, hturn]

theorem hostTurn_label (hline : prog[h.pc]? = some (.label l)) :
    hostTurn prog h s = .next ⟨h.pc + 1, h.names⟩ s := by
  simp [hostTurn, hline]

/-- An admitted read as the machine's next event returns its value, whatever else is on the agenda. -/
theorem hostAccess_read {addr : Word} {size : Nat} (hadm : AccessAdmitted addr size) :
    hostAccess s (.read addr size) = some { s with rdata := readValue s addr size, draws := s.draws + 1 } := by
  rw [hostAccess, step_read rfl hadm]
  rfl

/-- `RD32 STATUS` binds STATUS, with BUSY, DONE and ERR as they are. -/
theorem hostTurn_rd_status (hline : prog[h.pc]? = some (.rd 4 (.reg .status) n)) :
    hostTurn prog h s = .next ⟨h.pc + 1, Sparse.write h.names n s.statusWord⟩
      { s with rdata := s.statusWord, draws := s.draws + 1 } := by
  have hread : hostAccess s (.read (hostAddr (.reg .status)) 4) =
      some { s with rdata := s.statusWord, draws := s.draws + 1 } :=
    hostAccess_read ((admitted_iff _ _).1 (by decide))
  simp [hostTurn, hline, hread]

theorem hostTurn_bz {i : Nat} (hline : prog[h.pc]? = some (.bz n mask l)) (hname : Sparse.read h.names n = some v)
    (hlabel : labelLine prog l = some i) :
    hostTurn prog h s = .next ⟨if v &&& mask = 0#32 then i else h.pc + 1, h.names⟩ s := by
  by_cases htaken : v &&& mask = 0#32 <;> simp [hostTurn, hline, hname, hostBranch, hlabel, htaken]

/-- Bit 1 of STATUS is DONE (10_state.md R106). -/
theorem statusWord_and_two_eq_zero_iff (s : State) : s.statusWord &&& 0x2#32 = 0#32 ↔ s.done = false := by
  unfold State.statusWord
  cases s.busy <;> cases s.done <;> cases s.err <;> decide

/-- Settles O57: the label, the read of STATUS and the branch are one turn each. -/
theorem waitSpinsUntilDone : Obligations.WaitSpinsUntilDone := by
  rintro pre post l n ⟨pc, names⟩ s - rfl hfresh
  set prog := pre ++ pseudoWait l n ++ post
  have hline : ∀ k, prog[pre.length + k]? = (pseudoWait l n ++ post)[k]? := by
    intro k
    rw [show prog = pre ++ (pseudoWait l n ++ post) from List.append_assoc _ _ _,
      List.getElem?_append_right (Nat.le_add_right _ _), Nat.add_sub_cancel_left]
  have hlabel : labelLine prog l = some pre.length := by
    simpa [prog, pseudoWait] using labelLine_append _ hfresh
  rw [runHost_hostTurn _ (hostTurn_label (hline 0)), runHost_hostTurn _ (hostTurn_rd_status (hline 1)),
    runHost_hostTurn _ (hostTurn_bz (hline 2) (Sparse.read_write_same _ _ _) hlabel)]
  refine ⟨_, _, rfl, ?_, Sparse.read_write_same _ _ _, rfl⟩
  simp only [statusWord_and_two_eq_zero_iff]
  cases s.done <;> rfl

end Sys2Proof.Machine
end

section
/-! SUPPORT. Completions, as the terms of claims state them: a command is what its `run` came to, with the success or
the error completion (44_pipeline.md R803, 60_exceptions.md R910). -/

namespace Sys2Proof.Machine

variable {s t : State} {i : Instr}

theorem completedOk_okCompletion (t : State) : t.okCompletion.CompletedOk := ⟨rfl, rfl, rfl, rfl, rfl⟩

theorem exec_of_run_ok (h : run i s = .ok t) : exec i s = .next t.okCompletion := by
  rw [exec_eq_complete, h, State.complete_ok]

/-- No command changes the host's side. -/
theorem exec_sameHostSide (h : exec i s = .next t) : s.SameHostSide t := (commandsLeaveTheInputAlone i s t h).1

/-- A command whose `run` fails ends in its error completion, with the fields of its error. -/
theorem exec_of_run_error {e : CmdError} (h : run i s = .error e) :
    ∃ t, exec i s = .next t ∧ s.FailedWith t e.cause.code e.cause.detail (opcode e.stage) := by
  have hexec : exec i s = .next (s.errorCompletion e) := by rw [exec_eq_complete, h, State.complete_error]
  exact ⟨_, hexec, rfl, rfl, rfl, rfl, rfl, rfl, rfl, rfl, rfl, rfl, rfl, exec_sameHostSide hexec⟩

section Stage

variable {op : Instr} {body : State → Except Cause State} (hvalid : ((requires op).missing s.valid).isNone = true)
include hvalid

theorem stage_of_body_ok (h : body s = .ok t) : stage op body s = .ok t := by rw [stage_of_valid hvalid, h]

theorem stage_of_body_error {c : Cause} (h : body s = .error c) : stage op body s = .error ⟨c, op⟩ := by
  rw [stage_of_valid hvalid, h]

end Stage

/-! ### A success that wrote a buffer: the completion may as well come before the write -/

theorem okCompletion_putTokens (s : State) (toks : List Nat) :
    (s.putTokens toks).okCompletion = s.okCompletion.putTokens toks := rfl

theorem okCompletion_putOut (s : State) (b : List Byte) : (s.putOut b).okCompletion = s.okCompletion.putOut b := rfl

theorem tokens_okCompletion_putTokens {toks : List Nat} (hlen : toks.length < 2 ^ 32) (hlt : ∀ x ∈ toks, x < 2 ^ 16) :
    (s.putTokens toks).okCompletion.tokens = toks := by
  rw [okCompletion_putTokens, tokens_putTokens hlen hlt]

/-- The bytes written are the bytes read, when their number fits its register. -/
theorem outBytes_putOut {b : List Byte} (hlen : b.length < 2 ^ 32) : (s.putOut b).outBytes = b := by
  have htoNat : (BitVec.ofNat 32 b.length).toNat = b.length := Nat.mod_eq_of_lt hlen
  refine List.ext_getElem (by simp [State.outBytes, htoNat]) fun i h₁ h₂ => ?_
  simp [State.outBytes, State.outByte, h₂]

theorem outBytes_okCompletion_putOut {b : List Byte} (hlen : b.length < 2 ^ 32) :
    (s.putOut b).okCompletion.outBytes = b := by
  rw [okCompletion_putOut, outBytes_putOut hlen]

end Sys2Proof.Machine
end

section
/-! SUPPORT. The LZW encoder between two bytes: its dictionary has no string twice, its strings are short, its running
string is in it, and what holds at the start and is kept by a hit and by a miss holds at every point of a pass
(40_lzw.md R402, R409, R412, R441). -/

namespace Sys2Proof.Machine

variable {ceiling cap : Nat}

/-! ### The dictionary -/

theorem dictSeed_nodup : dictSeed.Nodup := by
  refine List.Nodup.map_on (fun i hi j hj heq => ?_) List.nodup_range
  rw [List.mem_range] at hi hj
  have hbyte : BitVec.ofNat 8 i = BitVec.ofNat 8 j := List.singleton_inj.1 heq
  have hmod : i % 2 ^ 8 = j % 2 ^ 8 := by simpa using congrArg BitVec.toNat hbyte
  omega

theorem length_of_mem_dictSeed {x : List Byte} (h : x ∈ dictSeed) : x.length = 1 := by
  obtain ⟨i, -, rfl⟩ := List.mem_map.1 h
  rfl

/-- The code of a single byte, in any dictionary that starts with the seeds, is the byte. -/
theorem dictCode_singleton {dict : List (List Byte)} (hseed : dictSeed <+: dict) (c : Byte) :
    dictCode dict [c] = c.toNat := by
  obtain ⟨rest, rfl⟩ := hseed
  have hget : dictSeed[c.toNat]'(by rw [dictSeed_length]; exact c.isLt) = [c] := by simp [dictSeed]
  rw [dictCode, List.idxOf_append_of_mem (mem_dictSeed c), ← hget]
  exact dictSeed_nodup.idxOf_getElem _ _

theorem getElem?_dictCode {dict : List (List Byte)} {x : List Byte} (h : x ∈ dict) :
    dict[dictCode dict x]? = some x := by
  have hlt : dictCode dict x < dict.length := List.idxOf_lt_length_of_mem h
  rw [List.getElem?_eq_getElem hlt]
  exact congrArg some (List.getElem_idxOf _)

/-- What an insertion or a reset leaves true of a dictionary. -/
structure DictOk (dict : List (List Byte)) : Prop where
  /-- the seeds stand first (40_lzw.md R401) -/
  seed : dictSeed <+: dict
  /-- 40_lzw.md R402 -/
  nodup : dict.Nodup
  /-- 40_lzw.md R441 -/
  short : ∀ x ∈ dict, x.length ≤ 1 + (dict.length - 256)

theorem dictOk_dictSeed : DictOk dictSeed :=
  ⟨List.prefix_rfl, dictSeed_nodup, fun _ hx => by rw [length_of_mem_dictSeed hx]; omega⟩

variable {dict : List (List Byte)}

theorem DictOk.mem_singleton (h : DictOk dict) (c : Byte) : [c] ∈ dict := h.seed.subset (mem_dictSeed c)

theorem DictOk.le_length (h : DictOk dict) : 256 ≤ dict.length := by simpa using h.seed.length_le

/-- Only the seeds themselves are as few as the seeds. -/
theorem DictOk.eq_dictSeed_iff (h : DictOk dict) : dict = dictSeed ↔ dict.length = 256 :=
  ⟨fun heq => by rw [heq, dictSeed_length], fun hlen => (h.seed.eq_of_length (by rw [dictSeed_length, hlen])).symm⟩

/-- An absent string that extends a present one by a byte keeps the dictionary so; a reset makes it so. -/
theorem DictOk.insertOrReset (h : DictOk dict) {w : List Byte} {c : Byte} (hw : w ∈ dict) (habsent : w ++ [c] ∉ dict) :
    DictOk (dictInsertOrReset ceiling dict (w ++ [c])) := by
  by_cases hroom : dict.length < ceiling
  · rw [dictInsertOrReset_of_lt _ hroom]
    refine ⟨h.seed.trans (List.prefix_append _ _), ?nodup, ?short⟩
    case nodup => exact List.nodup_append.2 ⟨h.nodup, List.nodup_singleton _, by
      rintro x hx y hy rfl
      exact habsent (List.mem_singleton.1 hy ▸ hx)⟩
    case short =>
      intro x hx
      rw [List.length_append, List.length_singleton, Nat.sub_add_comm h.le_length]
      rcases List.mem_append.1 hx with hx | hx
      · have := h.short x hx
        omega
      · have := h.short w hw
        rw [List.mem_singleton.1 hx, List.length_append, List.length_singleton]
        omega
  · rw [dictInsertOrReset_of_le _ (Nat.le_of_not_lt hroom)]
    exact dictOk_dictSeed

/-- The count of entries goes round from 256 to CEILING (40_lzw.md R412). -/
theorem dictInsertOrReset_length (hc : 256 ≤ ceiling) {n : Nat} (h : dict.length = 256 + n % (ceiling - 255))
    (wc : List Byte) : (dictInsertOrReset ceiling dict wc).length = 256 + (n + 1) % (ceiling - 255) := by
  have hlt : n % (ceiling - 255) < ceiling - 255 := Nat.mod_lt _ (by omega)
  rw [← Nat.mod_add_mod]
  by_cases hroom : dict.length < ceiling
  · rw [dictInsertOrReset_of_lt _ hroom, Nat.mod_eq_of_lt (by omega), List.length_append, h, List.length_singleton,
      Nat.add_assoc]
  · rw [dictInsertOrReset_of_le _ (Nat.le_of_not_lt hroom), dictSeed_length,
      show n % (ceiling - 255) + 1 = ceiling - 255 by omega, Nat.mod_self]

/-! ### The encoder's state -/

/-- What holds of the encoder's state between two bytes, whatever CEILING and TOK_CAP are (40_lzw.md R402, R409). -/
structure EncState.Wf (e : EncState) : Prop where
  dict : DictOk e.dict
  wMem : e.w ≠ [] → e.w ∈ e.dict

theorem EncState.wf_init : EncState.init.Wf := ⟨dictOk_dictSeed, fun h => absurd rfl h⟩

section Byte

variable {e : EncState} {c : Byte}

/-- A miss needs a running string: the first byte never misses (40_lzw.md R409, R414). -/
theorem EncState.Wf.w_ne_nil_of_miss (he : e.Wf) (hmiss : e.w ++ [c] ∉ e.dict) : e.w ≠ [] := fun hw =>
  hmiss (by rw [hw]; exact he.dict.mem_singleton c)

/-- Everything one input byte does to a state between two bytes: a miss emits exactly one token. -/
theorem EncState.Wf.encodeByte_ok (he : e.Wf) {e' : EncState} (h : encodeByte ceiling cap e c = .ok e') :
    (e.w ++ [c] ∈ e.dict ∧ e' = { e with w := e.w ++ [c] }) ∨
    (e.w ++ [c] ∉ e.dict ∧
      e' = ⟨dictInsertOrReset ceiling e.dict (e.w ++ [c]), [c], e.out ++ [dictCode e.dict e.w]⟩) := by
  obtain hhit | ⟨hmiss, f, hf, rfl⟩ := Machine.encodeByte_ok h
  · exact .inl hhit
  · obtain ⟨hw, -⟩ | ⟨-, -, rfl⟩ := codeEmit_ok hf
    · exact absurd hw (he.w_ne_nil_of_miss hmiss)
    · exact .inr ⟨hmiss, rfl⟩

theorem EncState.Wf.keepsOnHit (he : e.Wf) (hhit : e.w ++ [c] ∈ e.dict) : EncState.Wf { e with w := e.w ++ [c] } :=
  ⟨he.dict, fun _ => hhit⟩

theorem EncState.Wf.keepsOnMiss (he : e.Wf) (hmiss : e.w ++ [c] ∉ e.dict) (out : List Nat) :
    EncState.Wf ⟨dictInsertOrReset ceiling e.dict (e.w ++ [c]), [c], out⟩ := by
  have hdict := he.dict.insertOrReset (ceiling := ceiling) (he.wMem (he.w_ne_nil_of_miss hmiss)) hmiss
  exact ⟨hdict, fun _ => hdict.mem_singleton c⟩

end Byte

/-- Encoding one byte more is encoding the bytes before it, and then that byte. -/
theorem encodeBytes_snoc_ok {e f : EncState} {b : List Byte} {c : Byte}
    (h : encodeBytes ceiling cap e (b ++ [c]) = .ok f) :
    ∃ g, encodeBytes ceiling cap e b = .ok g ∧ encodeByte ceiling cap g c = .ok f := by
  rw [encodeBytes_append] at h
  split at h
  · cases h
  · obtain ⟨f', hf', hnil⟩ := encodeBytes_cons_ok h
    cases hnil
    exact ⟨_, ‹_›, hf'⟩

/-- What holds of no bytes and the start, and is kept by a hit and by a miss, holds of the bytes encoded and the state
they lead to, which is well formed. -/
theorem encodeBytes_induction {P : List Byte → EncState → Prop} (hinit : P [] EncState.init)
    (hhit : ∀ b e c, e.Wf → e.w ++ [c] ∈ e.dict → P b e → P (b ++ [c]) { e with w := e.w ++ [c] })
    (hmiss : ∀ b e c, e.Wf → e.w ++ [c] ∉ e.dict → P b e →
      P (b ++ [c]) ⟨dictInsertOrReset ceiling e.dict (e.w ++ [c]), [c], e.out ++ [dictCode e.dict e.w]⟩)
    {b : List Byte} {e : EncState} (h : encodeBytes ceiling cap EncState.init b = .ok e) : e.Wf ∧ P b e := by
  induction b using List.reverseRecOn generalizing e with
  | nil => cases h; exact ⟨EncState.wf_init, hinit⟩
  | append_singleton b c ih =>
    obtain ⟨f, hf, hc⟩ := encodeBytes_snoc_ok h
    obtain ⟨hwf, hP⟩ := ih hf
    obtain ⟨hin, rfl⟩ | ⟨hout, rfl⟩ := hwf.encodeByte_ok hc
    · exact ⟨hwf.keepsOnHit hin, hhit b f c hwf hin hP⟩
    · exact ⟨hwf.keepsOnMiss hout _, hmiss b f c hwf hout hP⟩

section Reached

variable {b : List Byte} {e : EncState} (h : encodeBytes ceiling cap EncState.init b = .ok e)
include h

theorem encodeBytes_wf : e.Wf :=
  (encodeBytes_induction (P := fun _ _ => True) trivial (fun _ _ _ _ _ _ => trivial) (fun _ _ _ _ _ _ => trivial) h).1

/-- After any byte there is a running string. -/
theorem encodeBytes_w_ne_nil (hb : b ≠ []) : e.w ≠ [] := by
  refine (encodeBytes_induction (P := fun b e => b ≠ [] → e.w ≠ []) (fun hnil => absurd rfl hnil) ?hit ?miss h).2 hb
  case hit => exact fun _ e c _ _ _ _ => List.append_ne_nil_of_right_ne_nil e.w (List.cons_ne_nil c [])
  case miss => exact fun _ _ c _ _ _ _ => List.cons_ne_nil c []

/-- The dictionary's size follows the number of tokens (40_lzw.md R412). -/
theorem encodeBytes_dict_length (hc : 256 ≤ ceiling) : e.dict.length = 256 + e.out.length % (ceiling - 255) := by
  refine (encodeBytes_induction (P := fun _ e => e.dict.length = 256 + e.out.length % (ceiling - 255))
    (by simp [EncState.init]) ?hit ?miss h).2
  case hit => exact fun _ _ _ _ _ hP => hP
  case miss =>
    intro _ e c _ _ hP
    rw [List.length_append, List.length_singleton]
    exact dictInsertOrReset_length hc hP _

end Reached

/-- Everything a successful encoding of a non-empty input did: its last token is the flush of the running string. -/
theorem lzwEncode_ok {b : List Byte} {t : List Nat} (hb : b ≠ []) (h : lzwEncode ceiling cap b = .ok t) :
    ∃ e, encodeBytes ceiling cap EncState.init b = .ok e ∧ t = e.out ++ [dictCode e.dict e.w] := by
  unfold lzwEncode at h
  split at h
  · cases h
  next e he =>
    split at h
    · cases h
    next f hf =>
      cases h
      obtain ⟨hw, -⟩ | ⟨-, -, rfl⟩ := codeEmit_ok hf
      · exact absurd hw (encodeBytes_w_ne_nil he hb)
      · exact ⟨e, he, rfl⟩

/-- Settles O15: every state of a pass is well formed. -/
theorem lzwDictionaryIsInjective : Obligations.LzwDictionaryIsInjective := by
  intro ceiling cap b e h
  have he := encodeBytes_wf h
  refine ⟨he.dict.nodup, he.dict.mem_singleton, fun c => he.w_ne_nil_of_miss, ?_⟩
  by_cases hw : e.w = []
  · exact .inl hw
  · exact .inr ⟨he.wMem hw, getElem?_dictCode (he.wMem hw)⟩

theorem decodeTokens_dict_length (hc : 256 ≤ ceiling) {ts : List Nat} {d d' : DecState} {n : Nat}
    (hd : d.dict.length = 256 + n % (ceiling - 255)) (h : decodeTokens ceiling cap d ts = .ok d') :
    d'.dict.length = 256 + (n + ts.length) % (ceiling - 255) := by
  induction ts generalizing d n with
  | nil => cases h; exact hd
  | cons k ks ih =>
    obtain ⟨f, hf, hrest⟩ := decodeTokens_cons_ok h
    obtain ⟨entry, -, -, rfl⟩ := decodeToken_ok hf
    rw [ih (dictInsertOrReset_length hc hd _) hrest, List.length_cons, Nat.add_right_comm, Nat.add_assoc]

/-- Settles O16: each miss, and each token past the first, takes the count of entries one place round. -/
theorem lzwResetCadence : Obligations.LzwResetCadence := by
  refine ⟨fun ceiling cap b e hc h => ?encoder, fun ceiling cap c ts d hc h => ?decoder⟩
  case encoder =>
    have hlen := encodeBytes_dict_length h hc
    refine ⟨hlen, ?_⟩
    rw [(encodeBytes_wf h).dict.eq_dictSeed_iff, hlen]
    omega
  case decoder => simpa using decodeTokens_dict_length (n := 0) hc (by simp) h

end Sys2Proof.Machine
end

section
/-! SUPPORT. The LZW decoder in step with the encoder: having processed the tokens emitted so far, it lags by the one
insertion or reset that the next token brings (40_lzw.md R438). -/

namespace Sys2Proof.Machine

variable {ceiling cap outCap : Nat}

/-! ### The decoder on its own -/

/-- The decoder after its first token (40_lzw.md R432). -/
abbrev DecState.first (t0 : Nat) : DecState := ⟨dictSeed, [BitVec.ofNat 8 t0], [BitVec.ofNat 8 t0]⟩

/-- The decoder takes all of `toks`, the first token included, and comes to `d`. -/
def Decodes (ceiling outCap : Nat) (toks : List Nat) (d : DecState) : Prop :=
  ∃ t0 ts, toks = t0 :: ts ∧ t0 < 256 ∧ decodeTokens ceiling outCap (DecState.first t0) ts = .ok d

theorem Decodes.snoc {toks : List Nat} {d d' : DecState} {k : Nat} (h : Decodes ceiling outCap toks d)
    (hk : decodeToken ceiling outCap d k = .ok d') : Decodes ceiling outCap (toks ++ [k]) d' := by
  obtain ⟨t0, ts, rfl, hlt, hts⟩ := h
  exact ⟨t0, ts ++ [k], rfl, hlt, by simp [decodeTokens_append, hts, decodeTokens, hk]⟩

theorem Decodes.decodeTokens_eq {t0 : Nat} {ts : List Nat} {d : DecState} (h : Decodes ceiling outCap (t0 :: ts) d) :
    decodeTokens ceiling outCap (DecState.first t0) ts = .ok d := by
  obtain ⟨_, _, heq, -, hts⟩ := h
  cases heq
  exact hts

theorem Decodes.lzwDecode_eq {toks : List Nat} {d : DecState} (h : Decodes ceiling outCap toks d) (hcap : 1 ≤ outCap) :
    lzwDecode ceiling outCap toks = .ok d.out := by
  obtain ⟨t0, ts, rfl, hlt, hts⟩ := h
  simp [lzwDecode, Nat.not_le.2 hlt, Nat.not_lt.2 hcap, hts]

theorem classify_of_getElem? {dict : List (List Byte)} {w entry : List Byte} {k : Nat} (h : dict[k]? = some entry) :
    classify dict w k = .ok entry := by simp [classify, h]

theorem classify_of_eq_length {dict : List (List Byte)} (w : List Byte) {k : Nat} (h : k = dict.length) :
    classify dict w k = .ok (w ++ w.take 1) := by simp [classify, h]

theorem decodeToken_of_classify {d : DecState} {k : Nat} {entry : List Byte} (h : classify d.dict d.w k = .ok entry)
    (hroom : d.out.length + entry.length ≤ outCap) : decodeToken ceiling outCap d k =
      .ok ⟨dictInsertOrReset ceiling d.dict (d.w ++ entry.take 1), entry, d.out ++ entry⟩ := by
  simp [decodeToken, h, Nat.not_lt.2 hroom]

/-- With more room the decoder does the same. -/
theorem decodeTokens_ok_mono {outCap' : Nat} (hle : outCap ≤ outCap') {ts : List Nat} {d d' : DecState}
    (h : decodeTokens ceiling outCap d ts = .ok d') : decodeTokens ceiling outCap' d ts = .ok d' := by
  induction ts generalizing d with
  | nil => exact h
  | cons k ks ih =>
    obtain ⟨f, hf, hrest⟩ := decodeTokens_cons_ok h
    obtain ⟨entry, hclass, hroom, rfl⟩ := decodeToken_ok hf
    rw [decodeTokens, decodeToken_of_classify hclass (hroom.trans hle)]
    exact ih hrest

/-! ### One token of the encoder -/

/-- The encoder in `e` is one insertion or reset ahead of the decoder in `d`, whose strings before it are the bytes `b`
without the encoder's running string. -/
structure Follows (ceiling : Nat) (b : List Byte) (d : DecState) (e : EncState) : Prop where
  seed : dictSeed <+: d.dict
  prev : d.w ≠ []
  run : e.w ≠ []
  dict : e.dict = dictInsertOrReset ceiling d.dict (d.w ++ e.w.take 1)
  out : d.out ++ e.w = b

/-- The first byte of a string that begins with another non-empty string is that one's. -/
theorem take_one_of_eq_append {x y z : List Byte} (h : x = y ++ z) (hy : y ≠ []) : x.take 1 = y.take 1 := by
  rw [h, List.take_append_of_le_length (List.length_pos_iff.2 hy)]

/-- The code of the encoder's running string classifies as that string: it is known to the decoder, or it is the string
about to be inserted (KwKwK), or after a reset it is a single byte (40_lzw.md R411, R433, R438). -/
theorem Follows.classify_eq {b : List Byte} {d : DecState} {e : EncState} (h : Follows ceiling b d e)
    (hmem : e.w ∈ e.dict) : classify d.dict d.w (dictCode e.dict e.w) = .ok e.w := by
  have hget := getElem?_dictCode hmem
  generalize dictCode e.dict e.w = k at hget ⊢
  rw [h.dict] at hget
  by_cases hroom : d.dict.length < ceiling
  · rw [dictInsertOrReset_of_lt _ hroom] at hget
    obtain hknown | hnew := Nat.lt_or_ge k d.dict.length
    · rw [List.getElem?_append_left hknown] at hget
      exact classify_of_getElem? hget
    · rw [List.getElem?_append_right hnew, List.getElem?_singleton] at hget
      split at hget
      case isFalse => cases hget
      case isTrue hk =>
        have hw : e.w = d.w ++ e.w.take 1 := (Option.some.inj hget).symm
        rw [classify_of_eq_length _ (by omega), ← take_one_of_eq_append hw h.prev, ← hw]
  · rw [dictInsertOrReset_of_le _ (Nat.le_of_not_lt hroom)] at hget
    have hlt := (List.getElem?_eq_some_iff.1 hget).1
    obtain ⟨rest, hrest⟩ := h.seed
    exact classify_of_getElem? (by rw [← hrest, List.getElem?_append_left hlt, hget])

/-- With that code the decoder catches up: its dictionary is the encoder's, and its output all the bytes encoded. -/
theorem Follows.decodeToken_eq {b : List Byte} {d : DecState} {e : EncState} (h : Follows ceiling b d e)
    (hmem : e.w ∈ e.dict) (hb : b.length ≤ outCap) :
    decodeToken ceiling outCap d (dictCode e.dict e.w) = .ok ⟨e.dict, e.w, b⟩ := by
  have hroom : d.out.length + e.w.length ≤ outCap := by rw [← List.length_append, h.out]; exact hb
  rw [decodeToken_of_classify (h.classify_eq hmem) hroom, ← h.dict, h.out]

/-! ### A whole pass -/

/-- The encoder has taken the bytes `b`: it has emitted nothing and `b` is its running string, or the decoder takes what
it has emitted and follows it. -/
def InStep (ceiling outCap : Nat) (b : List Byte) (e : EncState) : Prop :=
  (e.out = [] ∧ e.dict = dictSeed ∧ e.w = b) ∨
    ∃ d, Decodes ceiling outCap e.out d ∧ Follows ceiling b d e

theorem InStep.hit {b : List Byte} {e : EncState} (c : Byte) (h : InStep ceiling outCap b e) :
    InStep ceiling outCap (b ++ [c]) { e with w := e.w ++ [c] } := by
  obtain ⟨hout, hdict, hw⟩ | ⟨d, hd, hf⟩ := h
  · exact .inl ⟨hout, hdict, congrArg (· ++ [c]) hw⟩
  · refine .inr ⟨d, hd, hf.seed, hf.prev, by simp, ?_, ?_⟩
    · rw [take_one_of_eq_append rfl hf.run]
      exact hf.dict
    · rw [← List.append_assoc, hf.out]

/-- Were the running string emitted next, the decoder would come to the encoder's dictionary and the bytes encoded. -/
theorem InStep.decodes_next {b : List Byte} {e : EncState} (h : InStep ceiling outCap b e) (he : e.Wf) (hw : e.w ≠ [])
    (hb : b.length ≤ outCap) : Decodes ceiling outCap (e.out ++ [dictCode e.dict e.w]) ⟨e.dict, e.w, b⟩ := by
  obtain ⟨hout, hdict, hwb⟩ | ⟨d, hd, hf⟩ := h
  · obtain ⟨c, hc⟩ : ∃ c, e.w = [c] := List.length_eq_one_iff.1 (length_of_mem_dictSeed (hdict ▸ he.wMem hw))
    refine ⟨c.toNat, [], ?_, c.isLt, ?_⟩
    · rw [hout, hc, dictCode_singleton he.dict.seed]
      rfl
    · rw [← hwb, hc, hdict]
      simp
  · exact hd.snoc (hf.decodeToken_eq (he.wMem hw) hb)

theorem InStep.miss {b : List Byte} {e : EncState} {c : Byte} (h : InStep ceiling outCap b e) (he : e.Wf)
    (hw : e.w ≠ []) (hb : b.length ≤ outCap) :
    InStep ceiling outCap (b ++ [c])
      ⟨dictInsertOrReset ceiling e.dict (e.w ++ [c]), [c], e.out ++ [dictCode e.dict e.w]⟩ :=
  .inr ⟨⟨e.dict, e.w, b⟩, h.decodes_next he hw hb, he.dict.seed, hw, by simp, rfl, rfl⟩

theorem encodeBytes_inStep {b : List Byte} {e : EncState} (h : encodeBytes ceiling cap EncState.init b = .ok e)
    (hb : b.length ≤ outCap) : InStep ceiling outCap b e := by
  refine (encodeBytes_induction (P := fun b e => b.length ≤ outCap → InStep ceiling outCap b e)
    (fun _ => .inl ⟨rfl, rfl, rfl⟩) ?hit ?miss h).2 hb
  case hit =>
    intro b e c _ _ hP hlen
    rw [List.length_append] at hlen
    exact (hP (Nat.le_of_add_right_le hlen)).hit c
  case miss =>
    intro b e c he hmiss hP hlen
    rw [List.length_append] at hlen
    have hb : b.length ≤ outCap := Nat.le_of_add_right_le hlen
    exact (hP hb).miss he (he.w_ne_nil_of_miss hmiss) hb

/-! ### The token after those emitted -/

theorem encodeBytes_out_prefix {e f : EncState} {b : List Byte} (h : encodeBytes ceiling cap e b = .ok f) :
    e.out <+: f.out := by
  induction b generalizing e with
  | nil => cases h; exact List.prefix_rfl
  | cons c cs ih =>
    obtain ⟨g, hg, hrest⟩ := encodeBytes_cons_ok h
    refine List.IsPrefix.trans ?_ (ih hrest)
    obtain ⟨-, rfl⟩ | ⟨-, g', hg', rfl⟩ := encodeByte_ok hg
    · exact List.prefix_rfl
    · obtain ⟨-, rfl⟩ | ⟨-, -, rfl⟩ := codeEmit_ok hg'
      · exact List.prefix_rfl
      · exact List.prefix_append _ _

/-- The next token is emitted after some more hits, so the dictionary is then still the same. -/
theorem exists_emission_of_next {e f : EncState} {b : List Byte} {k : Nat} {rest : List Nat} (hw : e.w ≠ [])
    (h : encodeBytes ceiling cap e b = .ok f) (hnext : e.out ++ k :: rest = f.out ++ [dictCode f.dict f.w]) :
    ∃ b1 b2 g, b = b1 ++ b2 ∧ encodeBytes ceiling cap e b1 = .ok g ∧ g.dict = e.dict ∧ g.out = e.out ∧ g.w ≠ [] ∧
      k = dictCode g.dict g.w := by
  induction b generalizing e with
  | nil =>
    cases h
    exact ⟨[], [], f, rfl, rfl, rfl, rfl, hw, (List.cons.inj (List.append_cancel_left hnext)).1⟩
  | cons c cs ih =>
    obtain ⟨e1, he1, hrest⟩ := encodeBytes_cons_ok h
    obtain ⟨-, rfl⟩ | ⟨-, e2, he2, rfl⟩ := encodeByte_ok he1
    · obtain ⟨b1, b2, g, rfl, hg, hdict, hout, hgw, hk⟩ := ih (by simp) hrest hnext
      exact ⟨c :: b1, b2, g, rfl, by rw [encodeBytes, he1]; exact hg, hdict, hout, hgw, hk⟩
    · obtain ⟨hnil, -⟩ | ⟨-, -, rfl⟩ := codeEmit_ok he2
      · exact absurd hnil hw
      · obtain ⟨more, hmore⟩ := encodeBytes_out_prefix hrest
        rw [← hmore, List.append_assoc, List.append_assoc] at hnext
        exact ⟨[], c :: cs, e, rfl, rfl, rfl, rfl, hw, (List.cons.inj (List.append_cancel_left hnext)).1⟩

/-- The token after those emitted brings the decoder to the encoder's dictionary of the moment (40_lzw.md R438). -/
theorem decodes_next_token {b b' : List Byte} {e : EncState} {k : Nat} {rest : List Nat}
    (h : encodeBytes ceiling cap EncState.init b = .ok e) (hout : e.out ≠ [])
    (hall : lzwEncode ceiling cap (b ++ b') = .ok (e.out ++ k :: rest)) (hlen : (b ++ b').length ≤ outCap) :
    ∃ d, Decodes ceiling outCap (e.out ++ [k]) d ∧ d.dict = e.dict := by
  have hb : b ≠ [] := by
    rintro rfl
    cases h
    exact hout rfl
  obtain ⟨f, hf, hflush⟩ := lzwEncode_ok (List.append_ne_nil_of_left_ne_nil hb b') hall
  rw [encodeBytes_append, h] at hf
  obtain ⟨b1, b2, g, rfl, hg, hdict, hgout, hgw, rfl⟩ :=
    exists_emission_of_next (encodeBytes_w_ne_nil h hb) hf hflush
  have hreach : encodeBytes ceiling cap EncState.init (b ++ b1) = .ok g := by rw [encodeBytes_append, h]; exact hg
  have hlen1 : (b ++ b1).length ≤ outCap := by
    rw [← List.append_assoc, List.length_append] at hlen
    exact Nat.le_of_add_right_le hlen
  have hnext := (encodeBytes_inStep hreach hlen1).decodes_next (encodeBytes_wf hreach) hgw hlen1
  rw [hgout] at hnext
  exact ⟨_, hnext, hdict⟩

/-- Settles O17: the bound is part of the encoder's dictionary being well formed, and the decoder, given room, comes to
that dictionary. -/
theorem lzwDictionariesAgreeAndAreBounded : Obligations.LzwDictionariesAgreeAndAreBounded := by
  refine ⟨fun ceiling cap b e _ h => (encodeBytes_wf h).dict.short, ?_⟩
  intro ceiling cap outCap t0 k ts rest b b' e d _ h hout hall hd
  rw [← hout] at hall
  obtain ⟨d', hd', hdict⟩ := decodes_next_token h (by simp [hout]) hall (Nat.le_max_right outCap _)
  rw [hout] at hd'
  obtain rfl : d = d' :=
    Except.ok.inj ((decodeTokens_ok_mono (Nat.le_max_left _ _) hd).symm.trans hd'.decodeTokens_eq)
  rw [hdict]
  exact ⟨rfl, (encodeBytes_wf h).dict.short⟩

/-- Settles O20: at the flush, and at any token before it, the decoder catches up with the encoder. -/
theorem lzwRoundTrip : Obligations.LzwRoundTrip := by
  intro ceiling tokCap outCap b t _ hb hlen ht
  refine ⟨?bytes, ?resets⟩
  case bytes =>
    obtain ⟨e, he, rfl⟩ := lzwEncode_ok hb ht
    have hdec := (encodeBytes_inStep he hlen).decodes_next (encodeBytes_wf he) (encodeBytes_w_ne_nil he hb) hlen
    exact hdec.lzwDecode_eq ((List.length_pos_iff.2 hb).trans_le hlen)
  case resets =>
    rintro b1 b2 t0 k ts rest e rfl he hout rfl
    rw [← hout] at ht
    obtain ⟨d, hd, hdict⟩ := decodes_next_token he (by simp [hout]) ht hlen
    rw [hout] at hd
    exact ⟨d, hd.decodeTokens_eq, by rw [hdict]⟩

end Sys2Proof.Machine
end

section
/-! SUPPORT. The LZW encoder without a TOK_CAP, of which the model's is the part that fits, and the count of its tokens
(40_lzw.md R407, R410, R414). -/

namespace Sys2Proof.Machine

variable {ceiling cap : Nat}

/-! ### The encoder without a capacity -/

/-- Emit the code of the running string, whatever TOK_CAP is. -/
def EncState.emit (e : EncState) : EncState :=
  if e.w = [] then e else { e with out := e.out ++ [dictCode e.dict e.w] }

/-- One input byte, whatever TOK_CAP is. -/
def EncState.take (ceiling : Nat) (e : EncState) (c : Byte) : EncState :=
  if e.w ++ [c] ∈ e.dict then { e with w := e.w ++ [c] }
  else ⟨dictInsertOrReset ceiling e.dict (e.w ++ [c]), [c], e.emit.out⟩

/-- The input bytes in order, whatever TOK_CAP is. -/
def EncState.takeAll (ceiling : Nat) (e : EncState) (b : List Byte) : EncState := b.foldl (EncState.take ceiling) e

/-- The tokens emitted and the one that a flush would add. -/
def EncState.count (e : EncState) : Nat := e.out.length + if e.w = [] then 0 else 1

theorem EncState.emit_dict (e : EncState) : e.emit.dict = e.dict := by
  unfold emit
  split <;> rfl

theorem EncState.emit_out_length (e : EncState) : e.emit.out.length = e.count := by
  unfold emit count
  split <;> simp

theorem EncState.out_length_le_count (e : EncState) : e.out.length ≤ e.count := Nat.le_add_right _ _

/-- A byte takes no token back, and adds at most one to the count. -/
theorem EncState.take_count (e : EncState) (c : Byte) :
    e.out.length ≤ (e.take ceiling c).out.length ∧ (e.take ceiling c).count ≤ e.count + 1 := by
  unfold take
  split
  · exact ⟨le_rfl, by simp [count]⟩
  · rw [emit_out_length]
    exact ⟨e.out_length_le_count, by simp [count, emit_out_length]⟩

theorem EncState.takeAll_count (e : EncState) (b : List Byte) :
    e.out.length ≤ (e.takeAll ceiling b).out.length ∧ (e.takeAll ceiling b).count ≤ e.count + b.length := by
  induction b generalizing e with
  | nil => exact ⟨le_rfl, le_rfl⟩
  | cons c cs ih =>
    obtain ⟨hout, hcount⟩ := e.take_count (ceiling := ceiling) c
    obtain ⟨hout', hcount'⟩ := ih (e.take ceiling c)
    refine ⟨hout.trans hout', hcount'.trans ?_⟩
    rw [List.length_cons]
    omega

section Fits

variable {e : EncState} (h : e.out.length ≤ cap)
include h

theorem codeEmit_eq_ite :
    codeEmit cap e = if e.emit.out.length ≤ cap then .ok e.emit else .error (.capacity .tok) := by
  unfold codeEmit EncState.emit
  by_cases hw : e.w = []
  · simp [hw, h]
  · by_cases hfull : e.out.length = cap
    · simp [hw, hfull]
    · have hroom : e.out.length + 1 ≤ cap := by omega
      simp [hw, hfull, hroom]

theorem encodeByte_eq_ite (c : Byte) : encodeByte ceiling cap e c =
    if (e.take ceiling c).out.length ≤ cap then .ok (e.take ceiling c) else .error (.capacity .tok) := by
  unfold encodeByte EncState.take
  by_cases hhit : e.w ++ [c] ∈ e.dict
  · simp [hhit, h]
  · by_cases hroom : e.emit.out.length ≤ cap <;> simp [hhit, codeEmit_eq_ite h, hroom, EncState.emit_dict]

theorem encodeBytes_eq_ite (b : List Byte) : encodeBytes ceiling cap e b =
    if (e.takeAll ceiling b).out.length ≤ cap then .ok (e.takeAll ceiling b) else .error (.capacity .tok) := by
  induction b generalizing e with
  | nil => exact (if_pos h).symm
  | cons c cs ih =>
    rw [encodeBytes, encodeByte_eq_ite h]
    by_cases hroom : (e.take ceiling c).out.length ≤ cap
    · rw [if_pos hroom]
      exact ih hroom
    · have hmore := ((e.take ceiling c).takeAll_count (ceiling := ceiling) cs).1
      rw [if_neg hroom]
      exact (if_neg fun hfit => hroom (hmore.trans hfit)).symm

end Fits

/-- The tokens of the input, whatever TOK_CAP is. -/
def lzwTokens (ceiling : Nat) (b : List Byte) : List Nat := (EncState.init.takeAll ceiling b).emit.out

theorem lzwTokens_length_le (ceiling : Nat) (b : List Byte) : (lzwTokens ceiling b).length ≤ b.length := by
  have hcount := (EncState.init.takeAll_count (ceiling := ceiling) b).2
  rw [lzwTokens, EncState.emit_out_length]
  simpa [EncState.init, EncState.count] using hcount

theorem lzwEncode_eq_ite (ceiling cap : Nat) (b : List Byte) : lzwEncode ceiling cap b =
    if (lzwTokens ceiling b).length ≤ cap then .ok (lzwTokens ceiling b) else .error (.capacity .tok) := by
  have hbytes := encodeBytes_eq_ite (ceiling := ceiling) (e := EncState.init) (Nat.zero_le cap) b
  unfold lzwEncode lzwTokens
  by_cases hroom : (EncState.init.takeAll ceiling b).out.length ≤ cap
  · rw [hbytes, if_pos hroom]
    by_cases hflush : (EncState.init.takeAll ceiling b).emit.out.length ≤ cap <;>
      simp [codeEmit_eq_ite hroom, hflush]
  · rw [hbytes, if_neg hroom, if_neg]
    rw [EncState.emit_out_length]
    exact fun hfit => hroom ((EncState.out_length_le_count _).trans hfit)

/-- Settles O14: the tokens are those of the encoder without a capacity, and a step's cases are a hit and a miss. -/
theorem lzwTokensBoundedAndCounted : Obligations.LzwTokensBoundedAndCounted := by
  intro ceiling cap b hc
  refine ⟨fun t ht => ⟨(lzwEncode_bounds hc ht).1, fun hb => ⟨?nonempty, ?atMost⟩⟩, fun e he => ?step, fun c => ?first⟩
  case nonempty =>
    obtain ⟨e, -, rfl⟩ := lzwEncode_ok (List.length_pos_iff.1 hb) ht
    simp
  case atMost =>
    rw [lzwEncode_eq_ite] at ht
    split at ht
    · cases ht
      exact lzwTokens_length_le ceiling b
    · cases ht
  case first =>
    have hmem : [c] ∈ EncState.init.dict := mem_dictSeed c
    exact ⟨hmem, if_pos hmem⟩
  case step =>
    have hwf := encodeBytes_wf he
    refine ⟨fun hw => List.idxOf_lt_length_of_mem (hwf.wMem hw), ((EncState.ok_init hc).encodeBytes hc he).dictLen, ?_⟩
    intro c e' hc'
    obtain ⟨-, rfl⟩ | ⟨hmiss, rfl⟩ := hwf.encodeByte_ok hc'
    · exact .inl rfl
    · exact .inr ⟨hmiss, rfl⟩

/-! ### LZW_ENCODE -/

/-- LZW_ENCODE requires no valid bit (10_state.md R131). -/
theorem requires_lzwEncode (v : Valid) : ((requires .lzwEncode).missing v).isNone = true := rfl

section Command

variable {s : State}

theorem exec_lzwEncode_ok {out : List Nat} (hin : s.inLen.toNat ≤ s.params.inCap)
    (h : lzwEncode s.params.ceiling s.params.tokCap s.inBytes = .ok out) :
    exec .lzwEncode s = .next (s.dropTree.dropCodes.dropPacked.putTokens out).okCompletion :=
  exec_of_run_ok (stage_of_body_ok (requires_lzwEncode _) (by simp [lzwEncodeBody, Nat.not_lt.2 hin, h]))

theorem exec_lzwEncode_error {c : Cause} (h : lzwEncodeBody s = .error c) :
    ∃ t, exec .lzwEncode s = .next t ∧ s.FailedWith t c.code c.detail 0x10#8 :=
  exec_of_run_error (i := .lzwEncode) (stage_of_body_error (requires_lzwEncode _) h)

end Command

/-- Settles O13: the model's encoder is the one without a capacity, cut off at TOK_CAP. -/
theorem lzwEncodeCapacity : Obligations.LzwEncodeCapacity := by
  refine ⟨fun ceiling b => ⟨_, lzwTokens_length_le ceiling b, fun cap => lzwEncode_eq_ite ceiling cap b⟩,
    fun s hin => ?tooLong, fun s hin => ⟨fun u hu => ?fits, fun hfull => ?full⟩⟩
  case tooLong => exact exec_lzwEncode_error (c := .capacity .inp) (if_pos hin)
  case fits => exact ⟨_, exec_lzwEncode_ok hin hu, completedOk_okCompletion _⟩
  case full =>
    exact exec_lzwEncode_error (c := .capacity .tok) (by simp [lzwEncodeBody, Nat.not_lt.2 hin, hfull])

/-- Settles O12: the tokens fit TOK_MEM's entries and their number fits TOK_LEN. -/
theorem lzwEncodeWritesTheTokens : Obligations.LzwEncodeWritesTheTokens := by
  intro s out hwf hin h
  obtain ⟨hceil, hceil', -, htokCap, -⟩ := Params.bounds hwf
  obtain ⟨hlt, hlen⟩ := lzwEncode_bounds hceil h
  have hlen32 : out.length < 2 ^ 32 := by omega
  have hlt16 : ∀ x ∈ out, x < 2 ^ 16 := fun x hx => (hlt x hx).trans_le hceil'
  have hexec := exec_lzwEncode_ok hin h
  exact ⟨_, hexec, tokens_okCompletion_putTokens hlen32 hlt16, Nat.mod_eq_of_lt hlen32, rfl, rfl, rfl, rfl,
    completedOk_okCompletion _, exec_sameHostSide hexec, by simp, by simp⟩

end Sys2Proof.Machine
end

section
/-! SUPPORT. LZW_DECODE: the bytes it writes, and the first token that it rejects (40_lzw.md R430 to R437). -/

namespace Sys2Proof.Machine

variable {s : State}

theorem requires_lzwDecode (htok : s.valid.tok = true) : ((requires .lzwDecode).missing s.valid).isNone = true :=
  (Valid.missing_isNone_iff _ _).2 ⟨fun _ => htok, nofun, nofun, nofun⟩

theorem exec_lzwDecode_ok {b : List Byte} (htok : s.valid.tok = true)
    (h : lzwDecode s.params.ceiling s.params.outCap s.tokens = .ok b) :
    exec .lzwDecode s = .next (s.putOut b).okCompletion :=
  exec_of_run_ok (stage_of_body_ok (requires_lzwDecode htok) (by simp [lzwDecodeBody, h]))

theorem exec_lzwDecode_error {c : Cause} (htok : s.valid.tok = true)
    (h : lzwDecode s.params.ceiling s.params.outCap s.tokens = .error c) :
    ∃ t, exec .lzwDecode s = .next t ∧ s.FailedWith t c.code c.detail 0x11#8 :=
  exec_of_run_error (i := .lzwDecode)
    (stage_of_body_error (body := lzwDecodeBody) (requires_lzwDecode htok) (by simp [lzwDecodeBody, h]))

/-- Settles O18: the number of bytes fits OUT_LEN, and the completion keeps every other buffer. -/
theorem lzwDecodeWritesTheBytes : Obligations.LzwDecodeWritesTheBytes := by
  intro s b hwf htok h
  obtain ⟨-, -, houtCap, -⟩ := Params.bounds hwf
  have hlen := lzwDecode_length_le h
  have hlen32 : b.length < 2 ^ 32 := by omega
  have hexec := exec_lzwDecode_ok htok h
  exact ⟨_, hexec, outBytes_okCompletion_putOut hlen32, Nat.mod_eq_of_lt hlen32, rfl,
    completedOk_okCompletion _, exec_sameHostSide hexec, ⟨rfl, fun _ => rfl⟩, ⟨rfl, rfl, fun _ => rfl⟩, ⟨fun _ => rfl⟩,
    ⟨rfl, rfl, fun _ => rfl⟩⟩

/-! ### Tokens rejected -/

section Token

variable {ceiling outCap t0 k : Nat} {d : DecState}

theorem classify_of_length_lt {dict : List (List Byte)} (w : List Byte) (h : dict.length < k) :
    classify dict w k = .error (.corrupt .badCode) := by
  simp [classify, List.getElem?_eq_none h.le, h.ne']

/-- A code above the free-code counter is rejected before the output is looked at (40_lzw.md R434, R437). -/
theorem decodeToken_of_length_lt (h : d.dict.length < k) :
    decodeToken ceiling outCap d k = .error (.corrupt .badCode) := by
  rw [decodeToken, classify_of_length_lt d.w h]

theorem decodeToken_of_full {entry : List Byte} (h : classify d.dict d.w k = .ok entry)
    (hfull : outCap < d.out.length + entry.length) : decodeToken ceiling outCap d k = .error (.capacity .out) := by
  simp [decodeToken, h, hfull]

/-- The first token that fails decides, whatever follows it. -/
theorem lzwDecode_of_token_error {pre : List Nat} {x : Cause} (post : List Nat) (ht0 : t0 < 256) (hcap : 1 ≤ outCap)
    (hpre : decodeTokens ceiling outCap (DecState.first t0) pre = .ok d)
    (hk : decodeToken ceiling outCap d k = .error x) :
    lzwDecode ceiling outCap (t0 :: pre ++ k :: post) = .error x := by
  simp [lzwDecode, Nat.not_le.2 ht0, Nat.not_lt.2 hcap, decodeTokens_append, hpre, decodeTokens, hk]

end Token

/-- Settles O19: each of these token streams fails in the decoder with its own cause. -/
theorem lzwDecodeRejectsBadTokens : Obligations.LzwDecodeRejectsBadTokens := by
  intro s htok hcap
  refine ⟨fun hnil => ?empty, fun t0 ts htoks ht0 => ?badFirst, fun t0 pre k post d htoks ht0 hpre hk => ?badCode,
    fun t0 pre k post d entry htoks ht0 hpre hentry hfull => ?full⟩
  case empty => exact exec_lzwDecode_error (c := .corrupt .emptyTokens) htok (by rw [hnil]; rfl)
  case badFirst => exact exec_lzwDecode_error (c := .corrupt .badFirst) htok (by rw [htoks]; exact if_pos ht0)
  case badCode =>
    refine exec_lzwDecode_error (c := .corrupt .badCode) htok ?_
    rw [htoks]
    exact lzwDecode_of_token_error post ht0 hcap hpre (decodeToken_of_length_lt hk)
  case full =>
    refine exec_lzwDecode_error (c := .capacity .out) htok ?_
    have hclass : classify d.dict d.w k = .ok entry := by
      obtain hknown | ⟨hkwkwk, rfl⟩ := hentry
      · exact classify_of_getElem? hknown
      · exact classify_of_eq_length d.w hkwkwk
    rw [htoks]
    exact lzwDecode_of_token_error post ht0 hcap hpre (decodeToken_of_full hclass hfull)

end Sys2Proof.Machine
end

section
/-! SUPPORT. The builder's queue: it is kept in the order of R513, whatever the order of insertion (41_huffman.md R513,
R514). -/

namespace Sys2Proof.Machine

/-- The order of R513: by freq, then by seq. -/
def PqEntry.NotAfter (a b : PqEntry) : Prop := a.freq < b.freq ∨ a.freq = b.freq ∧ a.seq ≤ b.seq

theorem PqEntry.before_iff (a b : PqEntry) : a.before b = true ↔ ¬b.NotAfter a := by
  simp only [before, NotAfter, Bool.or_eq_true, Bool.and_eq_true, decide_eq_true_eq]
  omega

theorem PqEntry.NotAfter.refl (a : PqEntry) : a.NotAfter a := .inr ⟨rfl, le_rfl⟩

theorem PqEntry.NotAfter.total (a b : PqEntry) : a.NotAfter b ∨ b.NotAfter a := by
  unfold NotAfter
  omega

theorem PqEntry.NotAfter.trans {a b c : PqEntry} (hab : a.NotAfter b) (hbc : b.NotAfter c) : a.NotAfter c := by
  unfold NotAfter at *
  omega

theorem PqEntry.NotAfter.seq_eq {a b : PqEntry} (hab : a.NotAfter b) (hba : b.NotAfter a) : a.seq = b.seq := by
  unfold NotAfter at *
  omega

/-- An insertion keeps the queue in order. -/
theorem pqInsert_ordered (x : PqEntry) {q : List PqEntry} (hq : q.Pairwise PqEntry.NotAfter) :
    (pqInsert x q).Pairwise PqEntry.NotAfter := by
  induction q with
  | nil => exact List.pairwise_singleton _ _
  | cons y ys ih =>
    obtain ⟨hy, hys⟩ := List.pairwise_cons.1 hq
    rw [pqInsert]
    split
    · have hxy : x.NotAfter y := (PqEntry.NotAfter.total x y).resolve_right ((x.before_iff y).1 ‹_›)
      exact hq.cons (List.forall_mem_cons.2 ⟨hxy, fun z hz => hxy.trans (hy z hz)⟩)
    · have hyx : y.NotAfter x := not_not.1 fun hxy => ‹¬_› ((x.before_iff y).2 hxy)
      exact (ih hys).cons fun z hz => (mem_pqInsert.1 hz).elim (fun hzx => hzx ▸ hyx) (hy z)

theorem foldr_pqInsert_ordered (l : List PqEntry) : (l.foldr pqInsert []).Pairwise PqEntry.NotAfter := by
  induction l with
  | nil => exact List.Pairwise.nil
  | cons x l ih => exact pqInsert_ordered x ih

theorem foldr_pqInsert_perm (l : List PqEntry) : (l.foldr pqInsert []).Perm l := by
  induction l with
  | nil => exact List.Perm.refl _
  | cons x l ih => exact (pqInsert_perm x _).trans (ih.cons x)

/-- Settles O23: the queue is the ordered arrangement of the entries inserted, and there is one such arrangement when
no two entries have the same key. -/
theorem queueHeadIsTheLeastEntry : Obligations.QueueHeadIsTheLeastEntry := by
  intro l
  refine ⟨foldr_pqInsert_perm l, fun e rest hq x hx => ?least, fun l' hnd hperm => ?unique⟩
  case least =>
    have hord := foldr_pqInsert_ordered l
    have hmem := (foldr_pqInsert_perm l).mem_iff.2 hx
    rw [hq] at hord hmem
    obtain rfl | hrest := List.mem_cons.1 hmem
    · exact PqEntry.NotAfter.refl x
    · exact (List.pairwise_cons.1 hord).1 x hrest
  case unique =>
    refine ((foldr_pqInsert_perm l).trans (hperm.trans (foldr_pqInsert_perm l').symm)).eq_of_pairwise
      (fun a b ha hb hab hba => ?_) (foldr_pqInsert_ordered l) (foldr_pqInsert_ordered l')
    exact List.inj_on_of_nodup_map hnd ((foldr_pqInsert_perm l).mem_iff.1 ha)
      (hperm.mem_iff.2 ((foldr_pqInsert_perm l').mem_iff.1 hb)) (hab.seq_eq hba)

end Sys2Proof.Machine
end

section
/-! SUPPORT. The code table: what `tree_walk` lists, that the table is that list with its symbols rising, and what
follows for the codes (41_huffman.md R530 to R534). -/

namespace Sys2Proof.Machine

/-! ### Memories written from a list -/

/-- A canonical memory reads what it lists. -/
theorem Sparse.read_eq_some_iff {α : Type} {m : Sparse α} (h : Sparse.wf m = true) {i : Nat} {v : α} :
    Sparse.read m i = some v ↔ (i, v) ∈ m := by
  induction m with
  | nil => simp
  | cons q m ih =>
    obtain ⟨j, u⟩ := q
    obtain ⟨hj, hm⟩ := Sparse.wf_cons.1 h
    rw [Sparse.read_cons, List.mem_cons, Prod.mk.injEq, ← ih hm]
    by_cases hji : j = i
    · subst hji
      simp [Sparse.read_eq_none_of_lt hj, eq_comm]
    · simp [hji, Ne.symm hji]

/-- A write to an index not listed adds one entry. -/
theorem Sparse.write_perm {α : Type} {m : Sparse α} {i : Nat} (v : α) (h : i ∉ m.map Prod.fst) :
    (Sparse.write m i v).Perm ((i, v) :: m) := by
  induction m with
  | nil => exact List.Perm.refl _
  | cons q m ih =>
    obtain ⟨j, u⟩ := q
    rw [List.map_cons, List.mem_cons, not_or] at h
    simp only [Sparse.write, if_neg h.1]
    split
    · exact List.Perm.refl _
    · exact ((ih h.2).cons (j, u)).trans (List.Perm.swap _ _ _)

/-- Writes to distinct indices, none of them listed, add their entries. -/
theorem foldl_write_perm {α : Type} {l : List (Nat × α)} {m : Sparse α} (h : ((l ++ m).map Prod.fst).Nodup) :
    (l.foldl (fun m c => Sparse.write m c.1 c.2) m).Perm (l ++ m) := by
  induction l generalizing m with
  | nil => exact List.Perm.refl _
  | cons c l ih =>
    have hm : c.1 ∉ m.map Prod.fst := fun hc =>
      (List.nodup_cons.1 h).1 (List.map_append ▸ List.mem_append_right _ hc)
    have hwrite : (l ++ Sparse.write m c.1 c.2).Perm (c :: (l ++ m)) :=
      ((Sparse.write_perm c.2 hm).append_left l).trans List.perm_middle
    exact (ih ((hwrite.map Prod.fst).nodup_iff.2 h)).trans hwrite

/-! ### The walk -/

theorem treeWalk_symbols (t : HufTree) (p : Bits) : (treeWalk t p).map Prod.fst = t.symbols := by
  induction t generalizing p with
  | leaf sym => rfl
  | node l r ihl ihr => rw [treeWalk, List.map_append, ihl, ihr, HufTree.symbols]

/-- The walk below the path `p` lists each leaf with `p` and then the branches to it. -/
theorem mem_treeWalk {t : HufTree} {p q : Bits} {x : Nat} :
    (x, q) ∈ treeWalk t p ↔ ∃ b, q = p ++ b ∧ t.follow b = some (.leaf x) := by
  induction t generalizing p with
  | leaf sym =>
    simp only [treeWalk, List.mem_singleton, Prod.mk.injEq]
    constructor
    · rintro ⟨rfl, rfl⟩
      exact ⟨[], (List.append_nil q).symm, rfl⟩
    · rintro ⟨_ | ⟨b, bs⟩, rfl, h⟩
      · cases h
        exact ⟨rfl, List.append_nil p⟩
      · cases h
  | node l r ihl ihr =>
    rw [treeWalk, List.mem_append, ihl, ihr]
    constructor
    · rintro (⟨b, rfl, h⟩ | ⟨b, rfl, h⟩)
      · exact ⟨false :: b, List.append_assoc _ _ _, h⟩
      · exact ⟨true :: b, List.append_assoc _ _ _, h⟩
    · rintro ⟨_ | ⟨b, bs⟩, rfl, h⟩
      · cases h
      · cases b with
        | false => exact .inl ⟨bs, List.append_cons _ _ _, h⟩
        | true => exact .inr ⟨bs, List.append_cons _ _ _, h⟩

/-- The paths of a walk fill the subtree below `p`: Kraft's sum. -/
theorem treeWalk_kraft (t : HufTree) (p : Bits) :
    ((treeWalk t p).map fun c => (1 / 2 : ℚ) ^ c.2.length).sum = (1 / 2) ^ p.length := by
  induction t generalizing p with
  | leaf sym => simp [treeWalk]
  | node l r ihl ihr =>
    rw [treeWalk, List.map_append, List.sum_append, ihl, ihr]
    simp only [List.length_append, List.length_singleton, pow_succ]
    ring

/-! ### The codes -/

theorem treeCodes_symbols (t : HufTree) : (treeCodes t).map Prod.fst = t.symbols := by
  cases t with
  | leaf sym => rfl
  | node l r => exact treeWalk_symbols _ _

/-- A single leaf has the code "0", a leaf below a branch its path (41_huffman.md R530, R531). -/
theorem mem_treeCodes {t : HufTree} {x : Nat} {p : Bits} :
    (x, p) ∈ treeCodes t ↔
      (t = .leaf x ∧ p = [false]) ∨ ((∀ y, t ≠ .leaf y) ∧ t.follow p = some (.leaf x)) := by
  cases t with
  | leaf sym => simp [treeCodes, eq_comm]
  | node l r => simp [treeCodes, mem_treeWalk]

section Table

variable {tr : HufTree} (hnd : tr.symbols.Nodup)
include hnd

theorem codeTable_perm : (codeTable tr).Perm (treeCodes tr) := by
  simpa [codeTable] using foldl_write_perm (l := treeCodes tr) (m := [])
    (by rwa [List.append_nil, treeCodes_symbols])

/-- The table holds each symbol's code and no other. -/
theorem read_codeTable {x : Nat} {p : Bits} :
    Sparse.read (codeTable tr) x = some p ↔
      (tr = .leaf x ∧ p = [false]) ∨ ((∀ y, tr ≠ .leaf y) ∧ tr.follow p = some (.leaf x)) := by
  rw [Sparse.read_eq_some_iff (codeTable_wf tr), (codeTable_perm hnd).mem_iff, mem_treeCodes]

end Table

/-! ### HUF_CODEGEN -/

/-- HUF_CODEGEN requires the tree (10_state.md R131). -/
theorem requires_hufCodegen {v : Valid} (htree : v.tree = true) : ((requires .hufCodegen).missing v).isNone = true :=
  (Valid.missing_isNone_iff _ _).2 ⟨nofun, fun _ => htree, nofun, nofun⟩

theorem exec_hufCodegen_ok {s : State} {tr : HufTree} (hvalid : s.valid.tree = true) (htree : s.tree? = some tr) :
    exec .hufCodegen s = .next (s.putCodes (codeTable tr)).okCompletion :=
  exec_of_run_ok (stage_of_body_ok (body := hufCodegenBody) (requires_hufCodegen hvalid)
    (by rw [hufCodegenBody_eq, State.tree_eq_of_some htree]))

/-- Settles O24: the command writes the code table and nothing else. -/
theorem hufCodegenWritesThePaths : Obligations.HufCodegenWritesThePaths := by
  intro s tr hvalid htree hnd
  have hexec := exec_hufCodegen_ok hvalid htree
  exact ⟨_, hexec, fun _ _ => read_codeTable hnd, rfl, completedOk_okCompletion _, exec_sameHostSide hexec,
    ⟨rfl, fun _ => rfl⟩, ⟨rfl, rfl, fun _ => rfl⟩, ⟨rfl, rfl, fun _ => rfl⟩, ⟨rfl, fun _ => rfl⟩⟩

/-! ### No code begins another symbol's -/

@[simp] theorem follow_nil (t : HufTree) : t.follow [] = some t := by cases t <;> rfl

theorem follow_append (t : HufTree) (p q : Bits) : t.follow (p ++ q) = (t.follow p).bind fun u => u.follow q := by
  induction p generalizing t with
  | nil => simp
  | cons b p ih =>
    cases t with
    | leaf sym => rfl
    | node l r =>
      cases b with
      | false => exact ih l
      | true => exact ih r

/-- No path runs on below a leaf. -/
theorem leaf_eq_of_prefix {t : HufTree} {p q : Bits} {x y : Nat} (hp : t.follow p = some (.leaf x))
    (hq : t.follow q = some (.leaf y)) (hpq : p <+: q) : x = y := by
  obtain ⟨_ | ⟨b, r⟩, rfl⟩ := hpq <;> rw [follow_append, hp] at hq <;> cases hq
  rfl

theorem symbols_length_pos (t : HufTree) : 0 < t.symbols.length := by
  have := nodes_add_one t
  omega

/-- Each branch on the path to a leaf leaves at least one leaf aside. -/
theorem length_lt_of_follow {t : HufTree} {p : Bits} {x : Nat} (h : t.follow p = some (.leaf x)) :
    p.length < t.symbols.length := by
  induction t generalizing p with
  | leaf sym =>
    cases p with
    | nil => exact Nat.one_pos
    | cons b p => cases h
  | node l r ihl ihr =>
    have hl := symbols_length_pos l
    have hr := symbols_length_pos r
    rw [HufTree.symbols, List.length_append]
    cases p with
    | nil => cases h
    | cons b p =>
      rw [List.length_cons]
      cases b with
      | false => have := ihl h; omega
      | true => have := ihr h; omega

/-- The codes of a tree that branches are its own paths. -/
theorem read_codeTable_node {l r : HufTree} (hnd : (HufTree.node l r).symbols.Nodup) {x : Nat} {p : Bits} :
    Sparse.read (codeTable (.node l r)) x = some p ↔ (HufTree.node l r).follow p = some (.leaf x) := by
  simp [read_codeTable hnd]

theorem read_codeTable_leaf {x y : Nat} {p : Bits} :
    Sparse.read (codeTable (.leaf y)) x = some p ↔ x = y ∧ p = [false] := by
  simp [read_codeTable (tr := .leaf y) (List.nodup_singleton y), eq_comm]

/-- Settles O25: the codes are the paths of the walk, no path runs on below a leaf, and the walk's paths fill the
tree. -/
theorem codeTableIsAPrefixCode : Obligations.CodeTableIsAPrefixCode := by
  intro tr hnd
  refine ⟨fun x => ?domain, ?_⟩
  case domain =>
    rw [Sparse.isSome_read_iff, ((codeTable_perm hnd).map Prod.fst).mem_iff, treeCodes_symbols]
  cases tr with
  | leaf sym =>
    refine ⟨fun x y p q hp hq _ => ?_, fun htwo => absurd htwo (by simp [HufTree.symbols]), fun _ x p hp => ?_⟩
    · exact (read_codeTable_leaf.1 hp).1.trans (read_codeTable_leaf.1 hq).1.symm
    · rw [(read_codeTable_leaf.1 hp).2]; rfl
  | node l r =>
    simp only [read_codeTable_node hnd]
    refine ⟨fun x y p q => leaf_eq_of_prefix, fun _ => ⟨fun x p hp => ?bounds, ?kraft⟩, fun hone => ?single⟩
    case bounds =>
      have hlt := length_lt_of_follow hp
      have hne : p ≠ [] := fun hnil => by subst hnil; cases hp
      exact ⟨List.length_pos_iff.2 hne, Nat.le_sub_one_of_lt hlt, hp⟩
    case kraft =>
      rw [((codeTable_perm hnd).map _).sum_eq]
      exact (treeWalk_kraft (.node l r) []).trans (pow_zero _)
    case single =>
      have hl := symbols_length_pos l
      have hr := symbols_length_pos r
      rw [HufTree.symbols, List.length_append] at hone
      omega

end Sys2Proof.Machine
end

section
/-! SUPPORT. HUF_BUILD: the tree is a function of the tokens' frequencies, and the merge loop adds them up into the
root, the last node made (41_huffman.md R510 to R520). -/

namespace Sys2Proof.Machine

/-! ### Frequencies -/

theorem getD_read_countSymbol (m : Sparse Nat) (x y : Nat) :
    (Sparse.read (countSymbol m x) y).getD 0 = (Sparse.read m y).getD 0 + if x = y then 1 else 0 := by
  rw [countSymbol, Sparse.read_write]
  by_cases hxy : x = y
  · subst hxy
    simp
  · simp [hxy]

/-- A symbol is counted as often as it is a token (41_huffman.md R511). -/
theorem getD_read_frequencies (t : List Nat) (x : Nat) : (Sparse.read (frequencies t) x).getD 0 = t.count x := by
  suffices ∀ m : Sparse Nat, (Sparse.read (t.foldl countSymbol m) x).getD 0 = (Sparse.read m x).getD 0 + t.count x by
    simpa [frequencies] using this []
  induction t with
  | nil => exact fun m => rfl
  | cons y t ih =>
    intro m
    rw [List.foldl_cons, ih, getD_read_countSymbol, List.count_cons]
    simp only [beq_iff_eq]
    omega

theorem mem_frequencies {t : List Nat} {p : Nat × Nat} : p ∈ frequencies t ↔ p.1 ∈ t ∧ p.2 = t.count p.1 := by
  have hcount := getD_read_frequencies t p.1
  rw [← mem_keys_frequencies, ← Sparse.isSome_read_iff, ← hcount, ← Prod.mk.eta (p := p),
    ← Sparse.read_eq_some_iff (frequencies_wf t)]
  cases Sparse.read (frequencies t) p.1 <;> simp [eq_comm]

/-- Settles O22: the frequencies are in canonical form, and each is a count, which no order of the tokens changes. -/
theorem hufBuildDependsOnTheMultiset : Obligations.HufBuildDependsOnTheMultiset := by
  intro ceiling t u hperm
  have hfr : frequencies t = frequencies u := Sparse.ext_of_wf (frequencies_wf t) (frequencies_wf u) fun i =>
    Option.ext fun f => by
      rw [Sparse.read_eq_some_iff (frequencies_wf t), Sparse.read_eq_some_iff (frequencies_wf u), mem_frequencies,
        mem_frequencies, hperm.mem_iff, hperm.count_eq]
  rw [hufBuild, hufBuild, hfr]

/-- The symbols counted are the distinct tokens. -/
theorem keys_frequencies_perm (t : List Nat) : ((frequencies t).map Prod.fst).Perm t.dedup :=
  (List.perm_ext_iff_of_nodup (Sparse.keys_nodup (frequencies_wf t)) t.nodup_dedup).2 fun x => by
    rw [mem_keys_frequencies, List.mem_dedup]

/-- The frequencies add up to the number of tokens. -/
theorem sum_frequencies (t : List Nat) : ((frequencies t).map Prod.snd).sum = t.length :=
  calc ((frequencies t).map Prod.snd).sum
      = (((frequencies t).map Prod.fst).map fun x => t.count x).sum := by
        rw [List.map_map]
        exact congrArg List.sum (List.map_congr_left fun p hp => (mem_frequencies.1 hp).2)
    _ = (t.dedup.map fun x => t.count x).sum := ((keys_frequencies_perm t).map _).sum_eq
    _ = t.length := List.sum_map_count_dedup_eq_length t

/-! ### The queue counts what its nodes count -/

/-- The `freq` field of a node (10_state.md R122). -/
def Node.freq : Node → BitVec 32
  | .leaf _ f => f
  | .internal _ _ f => f

/-- The node at handle `h` has frequency `f`. -/
def NodeCounts (arena : List Node) (h f : Nat) : Prop := ∃ n, arena[h]? = some n ∧ n.freq = BitVec.ofNat 32 f

theorem NodeCounts.append {arena : List Node} {h f : Nat} (hn : NodeCounts arena h f) (more : List Node) :
    NodeCounts (arena ++ more) h f := by
  obtain ⟨n, hget, hfreq⟩ := hn
  exact ⟨n, by rw [List.getElem?_append_left (List.getElem?_eq_some_iff.1 hget).1, hget], hfreq⟩

/-- The merge loop ends at the last node made, whose frequency is the sum of those it started from. -/
theorem mergeLoop_root {ceiling fuel k : Nat} {q : List PqEntry} {arena : List Node} (hne : q ≠ [])
    (hfuel : q.length ≤ fuel + 1) (hlast : ∀ e, q = [e] → e.handle + 1 = arena.length)
    (hq : ∀ e ∈ q, NodeCounts arena e.handle e.freq) :
    (mergeLoop ceiling fuel k q arena).2 + 1 = (mergeLoop ceiling fuel k q arena).1.length ∧
    NodeCounts (mergeLoop ceiling fuel k q arena).1 (mergeLoop ceiling fuel k q arena).2
      (q.map PqEntry.freq).sum := by
  induction fuel generalizing k q arena with
  | zero =>
    match q with
    | [e] => exact ⟨hlast e rfl, by simpa using hq⟩
    | _ :: _ :: _ => simp at hfuel
  | succ fuel ih =>
    match q with
    | [e] => exact ⟨hlast e rfl, by simpa using hq⟩
    | a :: b :: rest =>
      rw [mergeLoop_succ_cons_cons]
      set parent : Node := .internal a.handle b.handle (BitVec.ofNat 32 (a.freq + b.freq))
      set entry : PqEntry := ⟨a.freq + b.freq, ceiling + k, arena.length⟩
      have hentry : NodeCounts (arena ++ [parent]) entry.handle entry.freq := ⟨parent, by simp [entry], rfl⟩
      have hsum : ((pqInsert entry rest).map PqEntry.freq).sum = ((a :: b :: rest).map PqEntry.freq).sum := by
        rw [((pqInsert_perm entry rest).map _).sum_eq]
        simp [entry, Nat.add_assoc]
      rw [← hsum]
      refine ih (List.ne_nil_of_length_pos (by simp)) ?room (fun e he => ?last) fun e he => ?counts
      case room => simp only [List.length_cons, pqInsert_length] at hfuel ⊢; omega
      case last =>
        have hmem : entry ∈ [e] := he ▸ mem_pqInsert.2 (.inl rfl)
        rw [← List.mem_singleton.1 hmem]
        simp [entry]
      case counts =>
        obtain rfl | hrest := mem_pqInsert.1 he
        · exact hentry
        · exact (hq e (by simp [hrest])).append _

/-! ### The initial queue -/

/-- The entry of leaf `j` (41_huffman.md R512), of a symbol with its frequency and its place. -/
def leafEntry (p : (Nat × Nat) × Nat) : PqEntry := ⟨p.1.2, p.1.1, p.2⟩

theorem initialQueue_perm (j : Nat) (fr : Sparse Nat) :
    (initialQueue j fr).Perm ((fr.zipIdx j).map leafEntry) := by
  induction fr generalizing j with
  | nil => exact List.Perm.refl _
  | cons p fr ih => exact (pqInsert_perm _ _).trans ((ih (j + 1)).cons _)

theorem initialQueue_length (j : Nat) (fr : Sparse Nat) : (initialQueue j fr).length = fr.length := by
  simpa using (initialQueue_perm j fr).length_eq

theorem sum_initialQueue (j : Nat) (fr : Sparse Nat) :
    ((initialQueue j fr).map PqEntry.freq).sum = (fr.map Prod.snd).sum := by
  have hfreq : PqEntry.freq ∘ leafEntry = Prod.snd ∘ Prod.fst := rfl
  rw [((initialQueue_perm j fr).map _).sum_eq, List.map_map, hfreq, ← List.map_map, List.zipIdx_map_fst]

/-- Each entry of the initial queue is that of the leaf at its handle. -/
theorem initialQueue_counts {fr : Sparse Nat} {e : PqEntry} (he : e ∈ initialQueue 0 fr) :
    e.handle < fr.length ∧ NodeCounts (leafNodes fr) e.handle e.freq := by
  obtain ⟨⟨p, i⟩, hp, rfl⟩ := List.mem_map.1 ((initialQueue_perm 0 fr).mem_iff.1 he)
  have hget : fr[i]? = some p := List.mem_zipIdx_iff_getElem?.1 hp
  exact ⟨(List.getElem?_eq_some_iff.1 hget).1, .leaf (BitVec.ofNat 16 p.1) (BitVec.ofNat 32 p.2),
    by simp [leafNodes, leafEntry, hget], rfl⟩

/-- The builder's root is the last node of its arena, and counts every token (41_huffman.md R516, R519). -/
theorem hufBuild_root (ceiling : Nat) {t : List Nat} (hne : t ≠ []) :
    (hufBuild ceiling t).root + 1 = (hufBuild ceiling t).arena.length ∧
    NodeCounts (hufBuild ceiling t).arena (hufBuild ceiling t).root t.length := by
  have hlen := initialQueue_length 0 (frequencies t)
  have hqne : initialQueue 0 (frequencies t) ≠ [] := by
    obtain ⟨x, hx⟩ := List.exists_mem_of_ne_nil t hne
    have hpos := List.length_pos_of_mem (mem_keys_frequencies.2 hx)
    rw [List.length_map, ← hlen] at hpos
    exact List.ne_nil_of_length_pos hpos
  rw [← sum_frequencies t, ← sum_initialQueue 0]
  refine mergeLoop_root hqne (hlen.le.trans (Nat.le_succ _)) (fun e he => ?_) fun e he => (initialQueue_counts he).2
  have hlt := (initialQueue_counts (he ▸ List.mem_singleton_self e)).1
  rw [he, List.length_singleton] at hlen
  rw [leafNodes_length]
  omega

/-- The symbols of the builder's tree are the distinct tokens: they hold every token, and are as many as the tokens
counted (41_huffman.md R519). -/
theorem TreeMade.symbols_iff {ceiling : Nat} {t : List Nat} {tr : HufTree}
    (h : TreeMade ceiling (hufBuild ceiling t).arena (hufBuild ceiling t).root (hufBuild ceiling t).count tr)
    (hall : ∀ x ∈ t, x ∈ tr.symbols) (x : Nat) : x ∈ tr.symbols ↔ x ∈ t := by
  have hsub : t.dedup.Subperm tr.symbols :=
    List.subperm_of_subset t.nodup_dedup fun y hy => hall y (List.mem_dedup.1 hy)
  have hcount : tr.nodes = 2 * t.dedup.length - 1 := by
    rw [h.nodes, ← (keys_frequencies_perm t).length_eq, List.length_map]
    rfl
  have hnodes := nodes_add_one tr
  have hperm := hsub.perm_of_length_le (by omega)
  rw [← hperm.mem_iff, List.mem_dedup]

/-! ### The command -/

/-- HUF_BUILD requires the tokens (10_state.md R131). -/
theorem requires_hufBuild {v : Valid} (htok : v.tok = true) : ((requires .hufBuild).missing v).isNone = true :=
  (Valid.missing_isNone_iff _ _).2 ⟨fun _ => htok, nofun, nofun, nofun⟩

section Command

variable {s : State}

theorem tokens_length (s : State) : s.tokens.length = s.tokLen.toNat := by simp [State.tokens]

theorem tokens_eq_nil_iff (s : State) : s.tokens = [] ↔ s.tokLen = 0#32 := by
  rw [← List.length_eq_zero_iff, tokens_length, ← BitVec.toNat_inj]
  rfl

theorem exec_hufBuild_ok (htok : s.valid.tok = true) (hne : s.tokens ≠ []) :
    exec .hufBuild s = .next (s.dropCodes.dropPacked.putTree (hufBuild s.params.ceiling s.tokens).arena
      (hufBuild s.params.ceiling s.tokens).root (hufBuild s.params.ceiling s.tokens).count).okCompletion :=
  exec_of_run_ok (stage_of_body_ok (body := hufBuildBody) (requires_hufBuild htok) (if_neg hne))

theorem exec_hufBuild_empty (htok : s.valid.tok = true) (hnil : s.tokens = []) :
    ∃ t, exec .hufBuild s = .next t ∧ s.FailedWith t 0x01#8 0x00#8 0x20#8 :=
  exec_of_run_error (i := .hufBuild) (e := ⟨.emptyInput, .hufBuild⟩)
    (stage_of_body_error (body := hufBuildBody) (requires_hufBuild htok) (if_pos hnil))

end Command

/-- Settles O21: the arena is the builder's, its tree has the distinct tokens as leaves, and its root is its last
node. -/
theorem hufBuildLoadsTheTree : Obligations.HufBuildLoadsTheTree := by
  intro s hwf htok hlt
  refine ⟨fun hzero => exec_hufBuild_empty htok ((tokens_eq_nil_iff s).2 hzero), fun hlen => ?_⟩
  have hne : s.tokens ≠ [] := fun hnil => hlen ((tokens_eq_nil_iff s).1 hnil)
  obtain ⟨-, hceil, -⟩ := Params.bounds hwf
  obtain ⟨tr, hmade, hall⟩ := hufBuild_treeMade hceil hne hlt
  obtain ⟨hroot, n, hn, hfreq⟩ := hufBuild_root s.params.ceiling hne
  have hexec := exec_hufBuild_ok htok hne
  have hcount := toNat_nodeCount_putTree (s := s.dropCodes.dropPacked) hceil hmade
  have hnodes := nodes_add_one tr
  refine ⟨_, tr, hexec, Sparse.read_ofList _, tree?_putTree (s := s.dropCodes.dropPacked) hmade, hmade.fit.1,
    hmade.symbols_iff hall, ?count, hcount, ?root, ⟨n, (Sparse.read_ofList _ _).trans hn, ?freq⟩, ?valid, rfl, rfl,
    completedOk_okCompletion _, exec_sameHostSide hexec, ⟨rfl, fun _ => rfl⟩, ⟨rfl, fun _ => rfl⟩⟩
  case count => rw [State.okCompletion_nodeCount, ← hcount]; omega
  case root =>
    rw [hmade.arenaLen, ← hmade.nodes] at hroot
    rw [State.okCompletion_root, State.putTree_root]
    omega
  case freq =>
    rw [tokens_length, BitVec.ofNat_toNat, BitVec.setWidth_eq] at hfreq
    rw [← hfreq]
    cases n <;> rfl
  case valid => simp [htok]

end Sys2Proof.Machine
end

section
/-! SUPPORT. Bits and bytes: a packed byte's bits, the bytes of padded bits, and a buffer told by its bits
(30_encoding.md R340, 42_bitpack.md R604, R621). -/

namespace Sys2Proof.Machine

@[simp] theorem bitsOfByte_byteOfBits (b7 b6 b5 b4 b3 b2 b1 b0 : Bool) :
    bitsOfByte (byteOfBits b7 b6 b5 b4 b3 b2 b1 b0) = [b7, b6, b5, b4, b3, b2, b1, b0] := by
  revert b7 b6 b5 b4 b3 b2 b1 b0
  decide

theorem bitsOfBytes_cons (b : Byte) (pk : List Byte) : bitsOfBytes (b :: pk) = bitsOfByte b ++ bitsOfBytes pk :=
  List.flatMap_cons

theorem bitsOfBytes_bytesOfBits {b : Bits} (h : b.length % 8 = 0) : bitsOfBytes (bytesOfBits b) = b := by
  induction b using bytesOfBits.induct with
  | case1 b7 b6 b5 b4 b3 b2 b1 b0 rest ih =>
    rw [bytesOfBits, bitsOfBytes_cons, bitsOfByte_byteOfBits, ih (by simp only [List.length_cons] at h; omega)]
    rfl
  | case2 b hshort =>
    have hnone : bytesOfBits b = [] := bytesOfBits.eq_2 b hshort
    have hlen := bytesOfBits_length b
    rw [hnone, List.length_nil] at hlen
    have hb : b = [] := List.length_eq_zero_iff.1 (by omega)
    rw [hnone, hb]
    rfl

/-- Bit `i` of byte `k`, counted from bit 0, is packed bit `8k + 7 - i`. -/
theorem packedBit_eq_getLsbD {pk : List Byte} {k i : Nat} (hk : k < pk.length) (hi : i < 8) :
    packedBit pk (8 * k + (7 - i)) = pk[k].getLsbD i := by
  have hdiv : (8 * k + (7 - i)) / 8 = k := by omega
  have hmod : 7 - (8 * k + (7 - i)) % 8 = i := by omega
  rw [packedBit, hdiv, hmod, List.getElem?_eq_getElem hk]

theorem getElem?_bitsOfByte (b : Byte) {j : Nat} (hj : j < 8) : (bitsOfByte b)[j]? = some (b.getLsbD (7 - j)) := by
  match j, hj with
  | 0, _ | 1, _ | 2, _ | 3, _ | 4, _ | 5, _ | 6, _ | 7, _ => rfl

/-- Packed bit `j` is element `j` of the bit sequence (30_encoding.md R340, 42_bitpack.md R621). -/
theorem packedBit_eq_getD (pk : List Byte) (j : Nat) : packedBit pk j = (bitsOfBytes pk).getD j false := by
  induction pk generalizing j with
  | nil => rfl
  | cons b pk ih =>
    rw [bitsOfBytes_cons, List.getD_eq_getElem?_getD]
    by_cases hj : j < 8
    · rw [List.getElem?_append_left (by simpa using hj), getElem?_bitsOfByte b hj]
      simp [packedBit, Nat.div_eq_of_lt hj, Nat.mod_eq_of_lt hj]
    · obtain ⟨k, rfl⟩ := Nat.exists_eq_add_of_le' (Nat.le_of_not_lt hj)
      rw [List.getElem?_append_right (by simp), bitsOfByte_length, Nat.add_sub_cancel, ← List.getD_eq_getElem?_getD,
        ← ih]
      simp [packedBit]

/-- A packed buffer is told by its length and its bits. -/
theorem eq_of_packedBit_eq {pk pk' : List Byte} (hlen : pk'.length = pk.length)
    (h : ∀ j, j < 8 * pk.length → packedBit pk' j = packedBit pk j) : pk' = pk := by
  refine List.ext_getElem hlen fun k hk' hk => BitVec.eq_of_getLsbD_eq fun i hi => ?_
  rw [← packedBit_eq_getLsbD hk' hi, ← packedBit_eq_getLsbD hk hi]
  exact h _ (by omega)

/-! ### Padding -/

theorem padBits_length (b : Bits) : (padBits b).length = b.length + padFor b.length := by simp [padBits]

/-- The padded bits fill the bytes that hold the bits (42_bitpack.md R604). -/
theorem padBits_length_div (b : Bits) : (padBits b).length / 8 = (b.length + 7) / 8 := by
  rw [padBits_length, padFor]
  omega

theorem bytesOfBits_padBits_length (b : Bits) : (bytesOfBits (padBits b)).length = (b.length + 7) / 8 := by
  rw [bytesOfBits_length, padBits_length_div]

theorem bitsOfBytes_bytesOfBits_padBits (b : Bits) : bitsOfBytes (bytesOfBits (padBits b)) = padBits b :=
  bitsOfBytes_bytesOfBits (padBits_length_mod b)

/-- The padded bits' bytes hold the bits, and 0 after them. -/
theorem packedBit_bytesOfBits_padBits (b : Bits) (j : Nat) :
    packedBit (bytesOfBits (padBits b)) j = b.getD j false := by
  rw [packedBit_eq_getD, bitsOfBytes_bytesOfBits_padBits, padBits]
  simp only [List.getD_eq_getElem?_getD]
  by_cases hj : j < b.length
  · rw [List.getElem?_append_left hj]
  · rw [List.getElem?_append_right (by omega), List.getElem?_eq_none (l := b) (by omega), List.getElem?_replicate]
    split <;> rfl

end Sys2Proof.Machine
end

section
/-! SUPPORT. PACK: the codes of the tokens in token order, and the bytes that hold them (42_bitpack.md R600 to R606). -/

namespace Sys2Proof.Machine

theorem codeBits_cons {codes : Sparse Bits} {x : Nat} {c : Bits} (h : Sparse.read codes x = some c) (xs : List Nat) :
    codeBits codes (x :: xs) = (codeBits codes xs).map fun rest => c ++ rest := by
  rw [codeBits, h]
  cases codeBits codes xs <;> rfl

theorem codeBits_of_coded {codes : Sparse Bits} {t : List Nat} (h : ∀ x ∈ t, (Sparse.read codes x).isSome = true) :
    codeBits codes t = .ok (t.flatMap fun x => (Sparse.read codes x).getD []) := by
  induction t with
  | nil => rfl
  | cons x t ih =>
    obtain ⟨hx, ht⟩ := List.forall_mem_cons.1 h
    obtain ⟨c, hc⟩ := Option.isSome_iff_exists.1 hx
    rw [codeBits_cons hc, ih ht, List.flatMap_cons, hc]
    rfl

theorem codeBits_of_uncoded {codes : Sparse Bits} {t : List Nat} (h : ∃ x ∈ t, Sparse.read codes x = none) :
    codeBits codes t = .error .noCode := by
  induction t with
  | nil => obtain ⟨x, hx, -⟩ := h; cases hx
  | cons y t ih =>
    cases hy : Sparse.read codes y with
    | none => rw [codeBits, hy]
    | some c =>
      obtain ⟨x, hx, hnone⟩ := h
      have hxt : x ∈ t := List.mem_of_ne_of_mem (fun hxy => by rw [← hxy, hnone] at hy; cases hy) hx
      rw [codeBits_cons hy, ih ⟨x, hxt, hnone⟩]
      rfl

/-- Settles O27: by induction on the tokens, with the first token coded or not. -/
theorem packConcatenatesTheCodes : Obligations.PackConcatenatesTheCodes :=
  fun _ _ => ⟨codeBits_of_coded, codeBits_of_uncoded⟩

section Tokens

variable {codes : Sparse Bits} {pkCap : Nat} {t : List Nat} {B : Bits} (h : codeBits codes t = .ok B)
include h

theorem packTokens_of_fits (hfit : B.length ≤ 8 * pkCap) :
    packTokens codes pkCap t = .ok (bytesOfBits (padBits B), padFor B.length) := by
  simp only [packTokens, h]
  rw [if_neg]
  rw [padBits_length_div]
  omega

theorem packTokens_of_overflow (hfull : 8 * pkCap < B.length) :
    packTokens codes pkCap t = .error (.capacity .pk) := by
  simp only [packTokens, h]
  rw [if_pos]
  rw [padBits_length_div]
  omega

end Tokens

/-! ### The command -/

/-- PACK requires the tokens and the codes (10_state.md R131). -/
theorem requires_pack {v : Valid} (htok : v.tok = true) (hcodes : v.codes = true) :
    ((requires .pack).missing v).isNone = true :=
  (Valid.missing_isNone_iff _ _).2 ⟨fun _ => htok, nofun, fun _ => hcodes, nofun⟩

/-- The bytes written are the bytes read, when their number fits its register. -/
theorem pkBytes_putPacked {s : State} {pk : List Byte} (pad : Nat) (hlen : pk.length < 2 ^ 32) :
    (s.putPacked pk pad).pkBytes = pk := by
  have htoNat : (BitVec.ofNat 32 pk.length).toNat = pk.length := Nat.mod_eq_of_lt hlen
  refine List.ext_getElem (by simp [State.pkBytes, htoNat]) fun i h₁ h₂ => ?_
  simp [State.pkBytes, State.pkByte, h₂]

theorem okCompletion_putPacked (s : State) (pk : List Byte) (pad : Nat) :
    (s.putPacked pk pad).okCompletion = s.okCompletion.putPacked pk pad := rfl

section Command

variable {s : State} (htok : s.valid.tok = true) (hcodes : s.valid.codes = true)
include htok hcodes

theorem exec_pack_ok {pk : List Byte} {pad : Nat}
    (h : packTokens s.codes s.params.pkCap s.tokens = .ok (pk, pad)) :
    exec .pack s = .next (s.putPacked pk pad).okCompletion :=
  exec_of_run_ok (stage_of_body_ok (body := packBody) (requires_pack htok hcodes) (by simp [packBody, h]))

theorem exec_pack_error {c : Cause} (h : packTokens s.codes s.params.pkCap s.tokens = .error c) :
    ∃ t, exec .pack s = .next t ∧ s.FailedWith t c.code c.detail 0x30#8 :=
  exec_of_run_error (i := .pack)
    (stage_of_body_error (body := packBody) (requires_pack htok hcodes) (by simp [packBody, h]))

end Command

/-- Settles O26: the padded bits' bytes fit PK_MEM and their number fits PK_LEN. -/
theorem packWritesTheBits : Obligations.PackWritesTheBits := by
  intro s B hwf htok hcodes hB hfit
  obtain ⟨-, -, -, -, hpkCap⟩ := Params.bounds hwf
  have hbytes := bytesOfBits_padBits_length B
  have hlen32 : (bytesOfBits (padBits B)).length < 2 ^ 32 := by omega
  have hlen : (BitVec.ofNat 32 (bytesOfBits (padBits B)).length).toNat = (B.length + 7) / 8 :=
    (Nat.mod_eq_of_lt hlen32).trans hbytes
  have hpad : (BitVec.ofNat 3 (padFor B.length)).toNat = padFor B.length := Nat.mod_eq_of_lt (padFor_lt _)
  have hread := pkBytes_putPacked (s := s.okCompletion) (padFor B.length) hlen32
  have hexec := exec_pack_ok htok hcodes (packTokens_of_fits hB hfit)
  refine ⟨_, hexec, hlen, ?pad, ?bytes, fun j _ => ?bit, rfl, completedOk_okCompletion _, exec_sameHostSide hexec,
    ⟨rfl, fun _ => rfl⟩, ⟨rfl, rfl, fun _ => rfl⟩, ⟨fun _ => rfl⟩, ⟨rfl, fun _ => rfl⟩⟩
  case pad =>
    simp only [State.okCompletion_padLen, State.putPacked_padLen, State.okCompletion_pkLen, State.putPacked_pkLen, hpad,
      hlen]
    rw [padFor]
    omega
  case bytes => rw [okCompletion_putPacked, hread, hbytes]; exact hlen.symm
  case bit => rw [okCompletion_putPacked, hread, packedBit_bytesOfBits_padBits]

/-- Settles O28: the bits do not exist, or are too many. -/
theorem packErrors : Obligations.PackErrors := by
  intro s htok hcodes
  refine ⟨fun huncoded => ?noCode, fun B hB hfull => ?full⟩
  case noCode =>
    exact exec_pack_error (c := .noCode) htok hcodes (by rw [packTokens, codeBits_of_uncoded huncoded])
  case full => exact exec_pack_error (c := .capacity .pk) htok hcodes (packTokens_of_overflow hB hfull)

end Sys2Proof.Machine
end

section
/-! SUPPORT. The unpacker's walk: down a path of the tree, over one code, and over the codes of a token sequence
(42_bitpack.md R622 to R625). -/

namespace Sys2Proof.Machine

/-! ### Paths -/

theorem follow_leaf_eq_some {x : Nat} {p : Bits} {u : HufTree} :
    (HufTree.leaf x).follow p = some u ↔ p = [] ∧ u = .leaf x := by
  cases p <;> simp [HufTree.follow, eq_comm]

theorem follow_node_cons (l r : HufTree) (b : Bool) (p : Bits) :
    (HufTree.node l r).follow (b :: p) = (if b then r else l).follow p := by
  cases b <;> rfl

/-- Each branch of a path leaves a node behind. -/
theorem nodes_add_length_le_of_follow {t u : HufTree} {p : Bits} (h : t.follow p = some u) :
    u.nodes + p.length ≤ t.nodes := by
  induction p generalizing t with
  | nil => rw [follow_nil] at h; cases h; exact le_rfl
  | cons b p ih =>
    cases t with
    | leaf x => cases h
    | node l r =>
      have hchild := ih ((follow_node_cons l r b p).symm.trans h)
      have hle : (if b then r else l).nodes ≤ l.nodes + r.nodes := by cases b <;> simp
      rw [List.length_cons, HufTree.nodes]
      omega

theorem ne_of_follow {t u : HufTree} {p : Bits} (hp : p ≠ []) (h : t.follow p = some u) : u ≠ t := by
  rintro rfl
  have hle := nodes_add_length_le_of_follow h
  have hpos := List.length_pos_iff.2 hp
  omega

section Walk

variable {tokCap : Nat} {root : HufTree} {out : List Nat}

/-! ### One bit -/

theorem walkBits_nil (cur : HufTree) :
    walkBits tokCap root cur out [] = if cur = root then .ok out else .error (.corrupt .midWalk) := by
  rw [walkBits]

/-- At a leaf, which is the root, a 1 bit is no code (42_bitpack.md R623). -/
theorem walkBits_leaf_true (x : Nat) (bs : Bits) :
    walkBits tokCap root (.leaf x) out (true :: bs) = .error (.corrupt .unknownCode) := rfl

/-- At a leaf, which is the root, a 0 bit is a token (42_bitpack.md R623). -/
theorem walkBits_leaf_false (x : Nat) (bs : Bits) : walkBits tokCap root (.leaf x) out (false :: bs) =
    (emitToken tokCap out x).bind fun out' => walkBits tokCap root root out' bs := by
  simp only [walkBits]
  cases emitToken tokCap out x <;> rfl

section Child

variable {l r : HufTree} {b : Bool} (bs : Bits)

theorem walkBits_to_leaf {x : Nat} (h : (if b then r else l) = .leaf x) :
    walkBits tokCap root (.node l r) out (b :: bs) =
      (emitToken tokCap out x).bind fun out' => walkBits tokCap root root out' bs := by
  simp only [walkBits, h]
  cases emitToken tokCap out x <;> rfl

theorem walkBits_to_node {l' r' : HufTree} (h : (if b then r else l) = .node l' r') :
    walkBits tokCap root (.node l r) out (b :: bs) = walkBits tokCap root (.node l' r') out bs := by
  simp only [walkBits, h]

end Child

/-! ### One path -/

/-- A path between branches emits nothing. -/
theorem walkBits_follow_node {cur l r : HufTree} {p : Bits} (h : cur.follow p = some (.node l r)) (rest : Bits) :
    walkBits tokCap root cur out (p ++ rest) = walkBits tokCap root (.node l r) out rest := by
  induction p generalizing cur with
  | nil => rw [follow_nil] at h; cases h; rfl
  | cons b p ih =>
    cases cur with
    | leaf x => cases h
    | node l₀ r₀ =>
      rw [follow_node_cons] at h
      cases hchild : (if b then r₀ else l₀) with
      | leaf x => rw [hchild, follow_leaf_eq_some] at h; cases h.2
      | node l' r' =>
        rw [hchild] at h
        rw [List.cons_append, walkBits_to_node _ hchild, ih h]

/-- A path to a leaf emits it, and the walk goes on at the root. -/
theorem walkBits_follow_leaf {l r : HufTree} {p : Bits} {x : Nat} (h : (HufTree.node l r).follow p = some (.leaf x))
    (rest : Bits) : walkBits tokCap root (.node l r) out (p ++ rest) =
      (emitToken tokCap out x).bind fun out' => walkBits tokCap root root out' rest := by
  induction p generalizing l r with
  | nil => cases h
  | cons b p ih =>
    rw [follow_node_cons] at h
    rw [List.cons_append]
    cases hchild : (if b then r else l) with
    | leaf y =>
      rw [hchild, follow_leaf_eq_some] at h
      obtain ⟨rfl, hxy⟩ := h
      cases hxy
      exact walkBits_to_leaf _ hchild
    | node l' r' =>
      rw [hchild] at h
      rw [walkBits_to_node _ hchild, ih h]

end Walk

/-! ### Codes -/

section Codes

variable {tokCap : Nat} {tr : HufTree} (hnd : tr.symbols.Nodup) {out : List Nat}
include hnd

/-- A code emits its symbol, a single leaf's "0" too (42_bitpack.md R622, R623). -/
theorem walkBits_code {x : Nat} {c : Bits} (h : Sparse.read (codeTable tr) x = some c) (rest : Bits) :
    walkBits tokCap tr tr out (c ++ rest) =
      (emitToken tokCap out x).bind fun out' => walkBits tokCap tr tr out' rest := by
  cases tr with
  | leaf y =>
    obtain ⟨rfl, rfl⟩ := read_codeTable_leaf.1 h
    exact walkBits_leaf_false x rest
  | node l r => exact walkBits_follow_leaf ((read_codeTable_node hnd).1 h) rest

/-- Codes that fit TOK_CAP emit their tokens. -/
theorem walkBits_codes_fit {toks : List Nat} {B : Bits} (hB : codeBits (codeTable tr) toks = .ok B)
    (hfit : out.length + toks.length ≤ tokCap) (rest : Bits) :
    walkBits tokCap tr tr out (B ++ rest) = walkBits tokCap tr tr (out ++ toks) rest := by
  induction toks generalizing out B with
  | nil => cases hB; rw [List.nil_append, List.append_nil]
  | cons x xs ih =>
    obtain ⟨c, B', hc, hB', rfl⟩ := codeBits_cons_ok hB
    rw [List.length_cons] at hfit
    have hemit : emitToken tokCap out x = .ok (out ++ [x]) := if_neg (by omega)
    have hrest : (out ++ [x]).length + xs.length ≤ tokCap := by rw [List.length_append, List.length_singleton]; omega
    rw [List.append_assoc, walkBits_code hnd hc, hemit, Except.bind, ih hB' hrest, List.append_assoc,
      List.singleton_append]

/-- The codes of more tokens than TOK_CAP end the walk, whatever follows (42_bitpack.md R624). -/
theorem walkBits_codes_overflow {toks : List Nat} {B : Bits} (hB : codeBits (codeTable tr) toks = .ok B)
    (hout : out.length ≤ tokCap) (hfull : tokCap < out.length + toks.length) (rest : Bits) :
    walkBits tokCap tr tr out (B ++ rest) = .error (.capacity .tok) := by
  induction toks generalizing out B with
  | nil => exact absurd hfull (Nat.not_lt.2 hout)
  | cons x xs ih =>
    obtain ⟨c, B', hc, hB', rfl⟩ := codeBits_cons_ok hB
    rw [List.length_cons] at hfull
    rw [List.append_assoc, walkBits_code hnd hc]
    by_cases hlast : out.length = tokCap
    · rw [emitToken, if_pos hlast, Except.bind]
    · rw [emitToken, if_neg hlast, Except.bind, ih hB' (by simp; omega) (by simp; omega)]

end Codes

/-- Each code of a single leaf is one 0 bit (42_bitpack.md R623). -/
theorem codeBits_replicate_leaf (sym n : Nat) :
    codeBits (codeTable (.leaf sym)) (List.replicate n sym) = .ok (List.replicate n false) := by
  induction n with
  | zero => rfl
  | succ n ih => rw [List.replicate_succ, codeBits_cons (read_codeTable_leaf.2 ⟨rfl, rfl⟩), ih]; rfl

/-- The walk under a single leaf. -/
theorem walkBits_singleLeaf (cap sym n : Nat) :
    (n ≤ cap → walkBits cap (.leaf sym) (.leaf sym) [] (List.replicate n false) = .ok (List.replicate n sym)) ∧
    (n ≤ cap → ∀ rest, walkBits cap (.leaf sym) (.leaf sym) [] (List.replicate n false ++ true :: rest) =
      .error (.corrupt .unknownCode)) ∧
    (cap < n → ∀ rest, walkBits cap (.leaf sym) (.leaf sym) [] (List.replicate n false ++ rest) =
      .error (.capacity .tok)) := by
  have hnd : (HufTree.leaf sym).symbols.Nodup := List.nodup_singleton sym
  have hB := codeBits_replicate_leaf sym n
  refine ⟨fun hfit => ?_, fun hfit rest => ?_, fun hfull rest => ?_⟩
  · have h := walkBits_codes_fit (tokCap := cap) (out := []) hnd hB (by simpa using hfit) []
    rwa [List.append_nil, List.nil_append, walkBits_nil, if_pos rfl] at h
  · rw [walkBits_codes_fit hnd hB (by simpa using hfit), walkBits_leaf_true]
  · exact walkBits_codes_overflow hnd hB (Nat.zero_le cap) (by simpa using hfull) rest

end Sys2Proof.Machine
end

section
/-! SUPPORT. UNPACK: the payload bits decide first, then the padding bits (42_bitpack.md R620 to R629). -/

namespace Sys2Proof.Machine

/-- The payload bits of packed bytes: all but the last `pad` (42_bitpack.md R621). -/
def payloadBits (pk : List Byte) (pad : Nat) : Bits := (bitsOfBytes pk).take (8 * pk.length - pad)

/-- The padding is zero exactly when no packed bit after the payload is 1 (42_bitpack.md R626). -/
theorem any_drop_bitsOfBytes (pk : List Byte) (n : Nat) :
    ((bitsOfBytes pk).drop n).any id = true ↔ ∃ j, n ≤ j ∧ packedBit pk j = true := by
  simp only [packedBit_eq_getD, List.getD_eq_getElem?_getD, List.any_eq_true, List.mem_iff_getElem?, id]
  constructor
  · rintro ⟨_, ⟨k, hk⟩, rfl⟩
    rw [List.getElem?_drop] at hk
    exact ⟨n + k, Nat.le_add_right n k, by rw [hk]; rfl⟩
  · rintro ⟨j, hj, hbit⟩
    obtain ⟨k, rfl⟩ := Nat.exists_eq_add_of_le hj
    refine ⟨true, ⟨k, ?_⟩, rfl⟩
    rw [List.getElem?_drop]
    cases hget : (bitsOfBytes pk)[n + k]? with
    | none => rw [hget] at hbit; cases hbit
    | some b => rw [hget] at hbit; exact congrArg some hbit

theorem payloadBits_eq_of_packedBit_eq {pk pk' : List Byte} {pad : Nat} (hlen : pk'.length = pk.length)
    (h : ∀ j, j < 8 * pk.length - pad → packedBit pk' j = packedBit pk j) :
    payloadBits pk' pad = payloadBits pk pad := by
  refine List.ext_getElem (by simp [payloadBits, hlen]) fun j hj' hj => ?_
  have hin : j < 8 * pk.length - pad := hj.trans_le (List.length_take_le _ _)
  have hbit := h j hin
  rw [packedBit_eq_getD, packedBit_eq_getD, List.getD_eq_getElem _ _ (by simp; omega),
    List.getD_eq_getElem _ _ (by simp; omega)] at hbit
  simpa [payloadBits] using hbit

section Unpack

variable {tokCap pad : Nat} {tr : HufTree} {pk : List Byte} {toks : List Nat}

theorem unpackTokens_of_walk_error {c : Cause} (h : walkBits tokCap tr tr [] (payloadBits pk pad) = .error c) :
    unpackTokens tokCap tr pk pad = .error c := by
  rw [payloadBits] at h
  simp only [unpackTokens, bitsOfBytes_length, h]

section WalkOk

variable (h : walkBits tokCap tr tr [] (payloadBits pk pad) = .ok toks)
include h

theorem unpackTokens_of_walk_ok : unpackTokens tokCap tr pk pad =
    if ((bitsOfBytes pk).drop (8 * pk.length - pad)).any id then .error (.corrupt .padNonzero) else .ok toks := by
  rw [payloadBits] at h
  simp only [unpackTokens, bitsOfBytes_length, h]

theorem unpackTokens_of_padding_zero (hzero : ∀ j, 8 * pk.length - pad ≤ j → packedBit pk j = false) :
    unpackTokens tokCap tr pk pad = .ok toks := by
  rw [unpackTokens_of_walk_ok h, if_neg]
  rw [any_drop_bitsOfBytes]
  rintro ⟨j, hj, hbit⟩
  rw [hzero j hj] at hbit
  cases hbit

theorem unpackTokens_of_padding_nonzero {j : Nat} (hj : 8 * pk.length - pad ≤ j) (hbit : packedBit pk j = true) :
    unpackTokens tokCap tr pk pad = .error (.corrupt .padNonzero) := by
  rw [unpackTokens_of_walk_ok h, if_pos ((any_drop_bitsOfBytes pk _).2 ⟨j, hj, hbit⟩)]

end WalkOk

/-- What unpacks has a payload that the walk accepts, and no 1 bit after it. -/
theorem walk_and_padding_of_unpackTokens (h : unpackTokens tokCap tr pk pad = .ok toks) :
    walkBits tokCap tr tr [] (payloadBits pk pad) = .ok toks ∧
    ∀ j, 8 * pk.length - pad ≤ j → packedBit pk j = false := by
  obtain ⟨hwalk, hpad⟩ := unpackTokens_ok h
  rw [bitsOfBytes_length] at hwalk hpad
  refine ⟨hwalk, fun j hj => Bool.eq_false_iff.2 fun hbit => ?_⟩
  rw [(any_drop_bitsOfBytes pk _).2 ⟨j, hj, hbit⟩] at hpad
  cases hpad

end Unpack

/-! ### What PACK made -/

/-- The payload of packed bits is those bits. -/
theorem payloadBits_bytesOfBits_padBits (B : Bits) :
    payloadBits (bytesOfBits (padBits B)) (padFor B.length) = B := by
  have hpayload : 8 * (bytesOfBits (padBits B)).length - padFor B.length = B.length := by
    rw [← bitsOfBytes_length, bitsOfBytes_bytesOfBits_padBits, padBits_length, Nat.add_sub_cancel]
  rw [payloadBits, hpayload, bitsOfBytes_bytesOfBits_padBits, padBits, List.take_left]

/-- Settles O33: the payload is the codes' bits, the walk takes one code after the other, and the padding is zero. -/
theorem packUnpackRoundTrip : Obligations.PackUnpackRoundTrip := by
  intro tr toks pkCap tokCap pk pad hnd _ hfit hpack
  obtain ⟨B, hB, -, rfl, rfl⟩ := packTokens_ok hpack
  have hpayload := payloadBits_bytesOfBits_padBits B
  refine unpackTokens_of_padding_zero ?walk fun j hj => ?padding
  case walk =>
    have hcodes := walkBits_codes_fit (out := []) hnd hB (by simpa using hfit) []
    rw [List.append_nil] at hcodes
    rw [hpayload, hcodes, walkBits_nil, if_pos rfl, List.nil_append]
  case padding =>
    have hlen : B.length ≤ j := by
      rw [← hpayload]
      exact (List.length_take_le _ _).trans hj
    rw [packedBit_bytesOfBits_padBits, List.getD_eq_default _ _ hlen]

/-! ### The command -/

/-- UNPACK requires the tree and the packed bytes (10_state.md R131). -/
theorem requires_unpack {v : Valid} (htree : v.tree = true) (hpk : v.pk = true) :
    ((requires .unpack).missing v).isNone = true :=
  (Valid.missing_isNone_iff _ _).2 ⟨nofun, fun _ => htree, nofun, fun _ => hpk⟩

theorem pkBytes_length (s : State) : s.pkBytes.length = s.pkLen.toNat := by simp [State.pkBytes]

/-- The symbols of a tree read from the arena are 16 bits wide (10_state.md R122). -/
theorem symbol_lt_of_readTree {arena : Sparse Node} {fuel h : Nat} {tr : HufTree}
    (htr : readTree arena fuel h = some tr) {x : Nat} (hx : x ∈ tr.symbols) : x < 2 ^ 16 := by
  induction fuel generalizing h tr with
  | zero => cases htr
  | succ fuel ih =>
    simp only [readTree] at htr
    split at htr
    · cases htr
    · cases htr
      obtain rfl := List.mem_singleton.1 hx
      exact BitVec.isLt _
    · split at htr
      · cases htr
        obtain hx | hx := List.mem_append.1 hx
        · exact ih ‹_› hx
        · exact ih ‹_› hx
      · cases htr

section Command

variable {s : State} (htree : s.valid.tree = true) (hpk : s.valid.pk = true)
include htree hpk

theorem exec_unpack_ok {toks : List Nat}
    (h : unpackTokens s.params.tokCap s.tree s.pkBytes s.padLen.toNat = .ok toks) :
    exec .unpack s = .next (s.putTokens toks).okCompletion :=
  exec_of_run_ok (stage_of_body_ok (body := unpackBody) (requires_unpack htree hpk) (by simp [unpackBody, h]))

theorem exec_unpack_error {c : Cause}
    (h : unpackTokens s.params.tokCap s.tree s.pkBytes s.padLen.toNat = .error c) :
    ∃ t, exec .unpack s = .next t ∧ s.FailedWith t c.code c.detail 0x31#8 :=
  exec_of_run_error (i := .unpack)
    (stage_of_body_error (body := unpackBody) (requires_unpack htree hpk) (by simp [unpackBody, h]))

theorem exec_unpack_walk_error {tr : HufTree} {c : Cause} (htr : s.tree? = some tr)
    (h : walkBits s.params.tokCap tr tr [] (payloadBits s.pkBytes s.padLen.toNat) = .error c) :
    ∃ t, exec .unpack s = .next t ∧ s.FailedWith t c.code c.detail 0x31#8 :=
  exec_unpack_error htree hpk (by rw [State.tree_eq_of_some htr, unpackTokens_of_walk_error h])

end Command

/-- What the unpacker decodes fits TOK_MEM's entries and TOK_LEN. -/
theorem unpackTokens_fit {s : State} {tr : HufTree} {toks : List Nat} (hwf : s.params.wf = true)
    (htr : s.tree? = some tr) (h : unpackTokens s.params.tokCap tr s.pkBytes s.padLen.toNat = .ok toks) :
    toks.length < 2 ^ 32 ∧ ∀ x ∈ toks, x < 2 ^ 16 := by
  obtain ⟨-, -, -, htokCap, -⟩ := Params.bounds hwf
  obtain ⟨hsub, hlen⟩ := unpackTokens_tokensFit h
  exact ⟨by omega, fun x hx => symbol_lt_of_readTree htr (hsub hx)⟩

/-- Settles O29: the tokens fit TOK_MEM's entries and their number fits TOK_LEN. -/
theorem unpackWritesTheTokens : Obligations.UnpackWritesTheTokens := by
  intro s htree hpk
  refine ⟨fun tr toks hwf htr h => ?tokens, fun hlen hpad => ?empty,
    fun tr toks B rest htr hnd hB hfull hpayload => ?full⟩
  case tokens =>
    obtain ⟨hlen32, hlt16⟩ := unpackTokens_fit hwf htr h
    have hexec := exec_unpack_ok htree hpk (by rw [State.tree_eq_of_some htr, h])
    exact ⟨_, hexec, tokens_okCompletion_putTokens hlen32 hlt16, Nat.mod_eq_of_lt hlen32, rfl,
      completedOk_okCompletion _, exec_sameHostSide hexec, ⟨rfl, rfl, fun _ => rfl⟩, ⟨fun _ => rfl⟩,
      ⟨rfl, rfl, fun _ => rfl⟩, ⟨rfl, fun _ => rfl⟩⟩
  case empty =>
    have hnil : s.pkBytes = [] := by rw [← List.length_eq_zero_iff, pkBytes_length, hlen]; rfl
    have hexec := exec_unpack_ok (toks := []) htree hpk
      (unpackTokens_of_padding_zero (by simp [hnil, payloadBits, bitsOfBytes, walkBits_nil])
        fun _ _ => by rw [hnil]; rfl)
    exact ⟨_, hexec, rfl, rfl, rfl, completedOk_okCompletion _, exec_sameHostSide hexec, ⟨rfl, rfl, fun _ => rfl⟩,
      ⟨fun _ => rfl⟩, ⟨rfl, rfl, fun _ => rfl⟩, ⟨rfl, fun _ => rfl⟩⟩
  case full =>
    refine exec_unpack_walk_error (c := .capacity .tok) htree hpk htr ?_
    rw [payloadBits, hpayload]
    exact walkBits_codes_overflow hnd hB (Nat.zero_le _) (by simpa using hfull) rest

/-- Settles O30: the walk's three cases, with the padding bits zero in the first. -/
theorem unpackSingleLeafTree : Obligations.UnpackSingleLeafTree := by
  refine ⟨walkBits_singleLeaf, fun s sym n P hwf htree hpk htr hP => ?_⟩
  obtain ⟨hok, hunknown, hfull⟩ := walkBits_singleLeaf s.params.tokCap sym n
  have hpayload : payloadBits s.pkBytes s.padLen.toNat = P := hP.symm
  refine ⟨fun hfit hzeros hpad => ?zeros, fun hfit rest hone => ?one, fun hmore rest hzeros => ?more⟩
  case zeros =>
    have hlen : n ≤ 8 * s.pkBytes.length - s.padLen.toNat := by
      have := List.length_take_le (8 * s.pkBytes.length - s.padLen.toNat) (bitsOfBytes s.pkBytes)
      rwa [← hP, hzeros, List.length_replicate] at this
    have hdecode : unpackTokens s.params.tokCap (.leaf sym) s.pkBytes s.padLen.toNat = .ok (List.replicate n sym) :=
      unpackTokens_of_padding_zero (by rw [hpayload, hzeros, hok hfit]) fun j hj => hpad j (hlen.trans hj)
    obtain ⟨t, hexec, htoks, htokLen, -, hdone, -⟩ :=
      (unpackWritesTheTokens s htree hpk).1 _ _ hwf htr hdecode
    exact ⟨t, hexec, htoks, htokLen.trans List.length_replicate, hdone⟩
  case one =>
    exact exec_unpack_walk_error (c := .corrupt .unknownCode) htree hpk htr
      (by rw [hpayload, hone, hunknown hfit])
  case more =>
    exact exec_unpack_walk_error (c := .capacity .tok) htree hpk htr (by rw [hpayload, hzeros, hfull hmore])

/-- Settles O31: the walk ends at a branch below the root, which is not the root. -/
theorem unpackMidWalk : Obligations.UnpackMidWalk := by
  intro s tr l r toks B p htree hpk htr hnd hB hfit hp hfollow hpayload
  refine exec_unpack_walk_error (c := .corrupt .midWalk) htree hpk htr ?_
  rw [payloadBits, hpayload, walkBits_codes_fit hnd hB (by simpa using hfit), ← List.append_nil p,
    walkBits_follow_node hfollow, walkBits_nil, if_neg (ne_of_follow hp hfollow)]

/-- Settles O32: a padding bit that is 1 is rejected, and a change of the padding sets one. -/
theorem unpackRejectsNonzeroPadding : Obligations.UnpackRejectsNonzeroPadding := by
  refine ⟨fun s tr toks j htree hpk htr hwalk hj _ hbit => ?command,
    fun cap tr pk pk' pad toks h hlen hsame hne => ?changed⟩
  case command =>
    exact exec_unpack_error (c := .corrupt .padNonzero) htree hpk
      (by rw [State.tree_eq_of_some htr, unpackTokens_of_padding_nonzero hwalk hj hbit])
  case changed =>
    obtain ⟨hwalk, hzero⟩ := walk_and_padding_of_unpackTokens h
    have hpayload : payloadBits pk' pad = payloadBits pk pad := payloadBits_eq_of_packedBit_eq hlen hsame
    obtain ⟨j, hj, hdiff⟩ : ∃ j, j < 8 * pk.length ∧ packedBit pk' j ≠ packedBit pk j := by
      by_contra! hall
      exact hne (eq_of_packedBit_eq hlen hall)
    have hpad : 8 * pk.length - pad ≤ j := Nat.le_of_not_lt fun hin => hdiff (hsame j hin)
    rw [hzero j hpad, Bool.ne_false_iff] at hdiff
    exact unpackTokens_of_padding_nonzero (hpayload ▸ hwalk) (hlen ▸ hpad) hdiff

end Sys2Proof.Machine
end

section
/-! SUPPORT. The fields of an artifact: an integer taken is an integer written, and a field cut short cannot be taken
(43_container.md R711). -/

namespace Sys2Proof.Machine

theorem leBytes_leValue (l : List Byte) : leBytes l.length (leValue l) = l := by
  induction l with
  | nil => rfl
  | cons b l ih =>
    have hlow : BitVec.ofNat 8 (leValue (b :: l)) = b := BitVec.eq_of_toNat_eq (by
      have := b.isLt
      simp only [leValue, BitVec.toNat_ofNat]
      omega)
    have hhigh : leValue (b :: l) / 256 = leValue l := by
      have := b.isLt
      simp only [leValue]
      omega
    rw [List.length_cons, leBytes, hlow, hhigh, ih]

/-- To take an integer of `n` bytes is to find its `n` bytes in front. -/
theorem takeLe_ok_iff {n v : Nat} {l rest : List Byte} :
    takeLe n l = .ok (v, rest) ↔ v < 256 ^ n ∧ l = leBytes n v ++ rest := by
  constructor
  · intro h
    obtain ⟨hn, rfl, rfl⟩ := takeLe_ok h
    have hlen : (l.take n).length = n := List.length_take_of_le hn
    have hlt := leValue_lt (l.take n)
    have hbytes := leBytes_leValue (l.take n)
    rw [hlen] at hlt hbytes
    exact ⟨hlt, by rw [hbytes, List.take_append_drop]⟩
  · rintro ⟨hv, rfl⟩
    have hval : leValue (leBytes n v) = v := by
      rw [leValue_leBytes, Nat.pow_mul]
      exact Nat.mod_eq_of_lt hv
    simp [takeLe, hval]

theorem takeLe_of_le {n : Nat} {l : List Byte} (h : n ≤ l.length) :
    takeLe n l = .ok (leValue (l.take n), l.drop n) := if_neg (Nat.not_lt.2 h)

theorem takeLe_of_lt {n : Nat} {l : List Byte} (h : l.length < n) : takeLe n l = .error (.corrupt .truncated) :=
  if_pos h

/-- A cut falls inside the first part or after it. -/
theorem cut_cases {α : Type} {front back l tail : List α} (h : front ++ back = l ++ tail) :
    (∃ e, e ≠ [] ∧ front = l ++ e) ∨ ∃ rest, l = front ++ rest ∧ back = rest ++ tail := by
  obtain ⟨rest, hl, hback⟩ | ⟨e, hfront, htail⟩ := List.append_eq_append_iff.1 h
  · exact .inr ⟨rest, hl, hback⟩
  · cases e with
    | nil => exact .inr ⟨[], by simpa using hfront.symm, by simpa using htail.symm⟩
    | cons x e => exact .inl ⟨x :: e, List.cons_ne_nil x e, hfront⟩

theorem length_lt_of_cut {α : Type} {front l e : List α} (h : front = l ++ e) (he : e ≠ []) :
    l.length < front.length := by
  have := List.length_pos_of_ne_nil he
  rw [h, List.length_append]
  omega

/-- An integer cut inside is truncated. -/
theorem takeLe_of_cut {n v : Nat} {l e : List Byte} (h : leBytes n v = l ++ e) (he : e ≠ []) :
    takeLe n l = .error (.corrupt .truncated) :=
  takeLe_of_lt (by simpa using length_lt_of_cut h he)

end Sys2Proof.Machine
end

section
/-! SUPPORT. SERIALIZE: the artifact it writes, and its capacity check (43_container.md R700 to R705). -/

namespace Sys2Proof.Machine

/-- SERIALIZE requires the tree and the packed bytes (10_state.md R131). -/
theorem requires_serialize {v : Valid} (htree : v.tree = true) (hpk : v.pk = true) :
    ((requires .serialize).missing v).isNone = true :=
  (Valid.missing_isNone_iff _ _).2 ⟨nofun, fun _ => htree, nofun, fun _ => hpk⟩

theorem serializeArtifact_of_fits {outCap count pad : Nat} {tr : HufTree} {pk : List Byte}
    (h : (artifact tr count pk pad).length ≤ outCap) :
    serializeArtifact outCap tr count pk pad = .ok (artifact tr count pk pad) := if_neg (Nat.not_lt.2 h)

theorem serializeArtifact_of_overflow {outCap count pad : Nat} {tr : HufTree} {pk : List Byte}
    (h : outCap < (artifact tr count pk pad).length) :
    serializeArtifact outCap tr count pk pad = .error (.capacity .out) := if_pos h

section Command

variable {s : State} (htree : s.valid.tree = true) (hpk : s.valid.pk = true)
include htree hpk

theorem exec_serialize_ok {a : List Byte}
    (h : serializeArtifact s.params.outCap s.tree s.nodeCount.toNat s.pkBytes s.padLen.toNat = .ok a) :
    exec .serialize s = .next (s.putOut a).okCompletion :=
  exec_of_run_ok (stage_of_body_ok (body := serializeBody) (requires_serialize htree hpk) (by simp [serializeBody, h]))

theorem exec_serialize_error {c : Cause}
    (h : serializeArtifact s.params.outCap s.tree s.nodeCount.toNat s.pkBytes s.padLen.toNat = .error c) :
    ∃ t, exec .serialize s = .next t ∧ s.FailedWith t c.code c.detail 0x40#8 :=
  exec_of_run_error (i := .serialize)
    (stage_of_body_error (body := serializeBody) (requires_serialize htree hpk) (by simp [serializeBody, h]))

end Command

/-- Settles O34: the artifact's length fits OUT_LEN, and the completion keeps every other buffer. -/
theorem serializeWritesTheArtifact : Obligations.SerializeWritesTheArtifact := by
  intro s tr a hwf htree hpk htr ha
  obtain ⟨-, -, houtCap, -⟩ := Params.bounds hwf
  obtain rfl : a = artifact tr s.nodeCount.toNat s.pkBytes s.padLen.toNat := by rw [ha, artifact, pkBytes_length]
  obtain rfl := State.tree_eq_of_some htr
  refine ⟨fun hfit => ?fits, fun hfull => exec_serialize_error htree hpk (serializeArtifact_of_overflow hfull)⟩
  have hlen32 : (artifact s.tree s.nodeCount.toNat s.pkBytes s.padLen.toNat).length < 2 ^ 32 := by omega
  have hexec := exec_serialize_ok htree hpk (serializeArtifact_of_fits hfit)
  exact ⟨_, hexec, outBytes_okCompletion_putOut hlen32, Nat.mod_eq_of_lt hlen32, rfl, completedOk_okCompletion _,
    exec_sameHostSide hexec, ⟨rfl, fun _ => rfl⟩, ⟨rfl, rfl, fun _ => rfl⟩, ⟨fun _ => rfl⟩, ⟨rfl, rfl, fun _ => rfl⟩⟩

end Sys2Proof.Machine
end

section
/-! SUPPORT. PARSE past its header: what one node, the loop, the length field and the payload are rejected for, and the
command (43_container.md R710 to R720). -/

namespace Sys2Proof.Machine

/-! ### One node -/

section Node

variable {ceiling : Nat} {freq : Nat → BitVec 32} {p : ParseState} {rest : List Byte}

/-- The parser after an internal node, with `rest` still to read. -/
def ParseState.openNode (freq : Nat → BitVec 32) (p : ParseState) (rest : List Byte) : ParseState :=
  let i := p.arena.length
  let (arena, stack) := attach (p.arena ++ [.internal 0 0 (freq i)]) p.stack i
  ⟨rest, p.need + 1, p.seen, (i, false) :: stack, arena⟩

/-- The parser after a leaf of symbol `sym`, with `rest` still to read. -/
def ParseState.addLeaf (freq : Nat → BitVec 32) (p : ParseState) (sym : Nat) (rest : List Byte) : ParseState :=
  let i := p.arena.length
  let (arena, stack) := attach (p.arena ++ [.leaf (BitVec.ofNat 16 sym) (freq i)]) p.stack i
  ⟨rest, p.need - 1, sym :: p.seen, stack, arena⟩

theorem parseNode_of_closed (h : p.need = 0) : parseNode ceiling freq p = .error (.corrupt .treeShape) := if_pos h

section Open

variable (hopen : p.need ≠ 0)
include hopen

theorem parseNode_nil (h : p.rest = []) : parseNode ceiling freq p = .error (.corrupt .truncated) := by
  simp [parseNode, hopen, h, takeLe]

theorem parseNode_internal (h : p.rest = 0x00#8 :: rest) : parseNode ceiling freq p = .ok (p.openNode freq rest) := by
  simp [parseNode, hopen, h, takeLe, leValue, ParseState.openNode]

theorem parseNode_badTag {tag : Byte} (h : p.rest = tag :: rest) (htag : 2 ≤ tag.toNat) :
    parseNode ceiling freq p = .error (.corrupt .badTag) := by
  have h0 : tag.toNat ≠ 0 := by omega
  have h1 : tag.toNat ≠ 1 := by omega
  simp [parseNode, hopen, h, takeLe, leValue, h0, h1]

theorem parseNode_leaf_error {c : Cause} (h : p.rest = 0x01#8 :: rest) (hsym : takeLe 2 rest = .error c) :
    parseNode ceiling freq p = .error c := by
  simp [parseNode, hopen, h, takeLe_of_le, leValue, hsym]

theorem parseNode_leaf {sym : Nat} {rest' : List Byte} (h : p.rest = 0x01#8 :: rest)
    (hsym : takeLe 2 rest = .ok (sym, rest')) : parseNode ceiling freq p =
      if ceiling ≤ sym then .error (.corrupt .badSymbol)
      else if sym ∈ p.seen then .error (.corrupt .dupSymbol)
      else .ok (p.addLeaf freq sym rest') := by
  simp [parseNode, hopen, h, takeLe_of_le, leValue, hsym, ParseState.addLeaf]

end Open

end Node

/-! ### The loop -/

section Loop

variable {ceiling n k : Nat} {freq : Nat → BitVec 32} {p q : ParseState} {c : Cause}

theorem parseNodes_cons_ok (h : parseNode ceiling freq p = .ok q) :
    parseNodes ceiling freq (n + 1) p = parseNodes ceiling freq n q := by rw [parseNodes, h]

theorem parseNodes_cons_error (h : parseNode ceiling freq p = .error c) :
    parseNodes ceiling freq (n + 1) p = .error c := by rw [parseNodes, h]

/-- The loop goes on from where its first nodes led. -/
theorem parseNodes_add (k : Nat) (h : parseNodes ceiling freq n p = .ok q) :
    parseNodes ceiling freq (n + k) p = parseNodes ceiling freq k q := by
  induction n generalizing p with
  | zero => cases h; rw [Nat.zero_add]
  | succ n ih =>
    obtain ⟨r, hr, hrest⟩ := parseNodes_succ_ok h
    rw [Nat.add_right_comm, parseNodes_cons_ok hr, ih hrest]

/-- The first node rejected decides. -/
theorem parseNodes_of_node_error (hn : n < k) (h : parseNodes ceiling freq n p = .ok q)
    (hq : parseNode ceiling freq q = .error c) : parseNodes ceiling freq k p = .error c := by
  obtain ⟨m, rfl⟩ := Nat.exists_eq_add_of_lt hn
  rw [Nat.add_assoc, parseNodes_add _ h, parseNodes_cons_error hq]

end Loop

/-! ### The length field and the payload -/

section Payload

variable {pkCap pad len : Nat} {l pk : List Byte}

theorem parsePayload_of_takeLe_error {c : Cause} (h : takeLe 8 l = .error c) : parsePayload pkCap pad l = .error c := by
  simp [parsePayload, h]

theorem parsePayload_of_takeLe_ok (h : takeLe 8 l = .ok (len, pk)) : parsePayload pkCap pad l =
    if len ≠ pk.length then .error (.corrupt .lenMismatch)
    else if 0 < pad ∧ len = 0 then .error (.corrupt .badPad)
    else if pkCap < len then .error (.capacity .pk)
    else .ok pk := by
  simp [parsePayload, h]

end Payload

/-! ### The whole artifact -/

/-- The header of `a` passes its checks: it gives the padding and the node count, and `rest` follows it
(43_container.md R711 to R713). -/
structure HeaderOk (params : Params) (a : List Byte) (pad count : Nat) (rest : List Byte) : Prop where
  fields : ∃ rest₁, takeLe 4 a = .ok (pad, rest₁) ∧ takeLe 4 rest₁ = .ok (count, rest)
  pad : pad ≤ 7
  count : 1 ≤ count ∧ count ≤ params.nodeCap

section Artifact

variable {params : Params} {freq : Nat → BitVec 32} {a rest : List Byte} {pad count : Nat} {c : Cause}

theorem parseArtifact_of_pad_error (h : takeLe 4 a = .error c) : parseArtifact params freq a = .error c := by
  simp [parseArtifact, h]

section Pad

variable (hpad : takeLe 4 a = .ok (pad, rest))
include hpad

theorem parseArtifact_of_badPad (h : 7 < pad) : parseArtifact params freq a = .error (.corrupt .badPad) := by
  simp [parseArtifact, hpad, h]

variable (h7 : pad ≤ 7)
include h7

theorem parseArtifact_of_count_error (h : takeLe 4 rest = .error c) : parseArtifact params freq a = .error c := by
  simp [parseArtifact, hpad, Nat.not_lt.2 h7, h]

theorem parseArtifact_of_badCount {rest' : List Byte} (h : takeLe 4 rest = .ok (count, rest'))
    (hcount : count = 0 ∨ params.nodeCap < count) : parseArtifact params freq a = .error (.corrupt .treeShape) := by
  simp [parseArtifact, hpad, Nat.not_lt.2 h7, h, hcount]

end Pad

section Header

variable (hhead : HeaderOk params a pad count rest)
include hhead

theorem parseArtifact_of_nodes_error (h : parseNodes params.ceiling freq count ⟨rest, 1, [], [], []⟩ = .error c) :
    parseArtifact params freq a = .error c := by
  obtain ⟨⟨rest₁, hpad, hcount⟩, h7, hpos, hcap⟩ := hhead
  simp [parseArtifact, hpad, Nat.not_lt.2 h7, hcount, Nat.ne_of_gt hpos, Nat.not_lt.2 hcap, h]

variable {p : ParseState} (hnodes : parseNodes params.ceiling freq count ⟨rest, 1, [], [], []⟩ = .ok p)
include hnodes

theorem parseArtifact_of_nodes_ok : parseArtifact params freq a =
    if p.need ≠ 0 then .error (.corrupt .treeShape)
    else (parsePayload params.pkCap pad p.rest).map fun pk => ⟨p.arena, 0, count, pk, pad⟩ := by
  obtain ⟨⟨rest₁, hpad, hcount⟩, h7, hpos, hcap⟩ := hhead
  cases hpay : parsePayload params.pkCap pad p.rest <;>
    simp [parseArtifact, hpad, Nat.not_lt.2 h7, hcount, Nat.ne_of_gt hpos, Nat.not_lt.2 hcap, hnodes, hpay,
      Except.map]

end Header

end Artifact

/-! ### The command -/

section Command

variable {s : State}

/-- PARSE requires no valid bit (10_state.md R131). -/
theorem requires_parse (v : Valid) : ((requires .parse).missing v).isNone = true := rfl

theorem inBytes_length (s : State) : s.inBytes.length = s.inLen.toNat := by simp [State.inBytes]

theorem exec_parse_body_error {c : Cause} (h : parseBody s = .error c) :
    ∃ t, exec .parse s = .next t ∧ s.FailedWith t c.code c.detail 0x41#8 :=
  exec_of_run_error (i := .parse) (stage_of_body_error (requires_parse _) h)

variable (hin : s.inLen.toNat ≤ s.params.inCap)
include hin

theorem exec_parse_ok {p : Parsed} (h : parseArtifact s.params (Config.freeFreq s.draws) s.inBytes = .ok p) :
    exec .parse s =
      .next ((s.dropTokens.dropCodes.putTree p.arena p.root p.count).putPacked p.pk p.pad).okCompletion :=
  exec_of_run_ok (stage_of_body_ok (body := parseBody) (requires_parse _) (by simp [parseBody, Nat.not_lt.2 hin, h]))

theorem exec_parse_error {c : Cause}
    (h : parseArtifact s.params (Config.freeFreq s.draws) s.inBytes = .error c) :
    ∃ t, exec .parse s = .next t ∧ s.FailedWith t c.code c.detail 0x41#8 :=
  exec_parse_body_error (by simp [parseBody, Nat.not_lt.2 hin, h])

end Command

/-- Settles O38: each header is rejected at the first of its checks that fails. -/
theorem parseHeaderErrors : Obligations.ParseHeaderErrors := by
  intro s
  refine ⟨fun hfull => exec_parse_body_error (c := .capacity .inp) (if_pos hfull), fun hin => ?_⟩
  rw [← inBytes_length]
  refine ⟨fun hshort => ?noPad, fun hlen hbad => ?badPad, fun hlen hshort h7 => ?noCount, fun hlen h7 hcount => ?badCount⟩
  case noPad => exact exec_parse_error (c := .corrupt .truncated) hin (parseArtifact_of_pad_error (takeLe_of_lt hshort))
  case badPad => exact exec_parse_error (c := .corrupt .badPad) hin (parseArtifact_of_badPad (takeLe_of_le hlen) hbad)
  case noCount =>
    exact exec_parse_error (c := .corrupt .truncated) hin
      (parseArtifact_of_count_error (takeLe_of_le hlen) h7 (takeLe_of_lt (by rw [List.length_drop]; omega)))
  case badCount =>
    exact exec_parse_error (c := .corrupt .treeShape) hin
      (parseArtifact_of_badCount (takeLe_of_le (by omega)) h7 (takeLe_of_le (by rw [List.length_drop]; omega)) hcount)

theorem headerOk_of_bytes {params : Params} {pad count : Nat} (rest : List Byte) (h7 : pad ≤ 7) (hpos : 1 ≤ count)
    (hcap : count ≤ params.nodeCap) (h32 : count < 2 ^ 32) :
    HeaderOk params (leBytes 4 pad ++ leBytes 4 count ++ rest) pad count rest :=
  ⟨⟨leBytes 4 count ++ rest, takeLe_ok_iff.2 ⟨by omega, List.append_assoc ..⟩, takeLe_ok_iff.2 ⟨by omega, rfl⟩⟩, h7, hpos,
    hcap⟩

/-- Settles O39: the first check that fails decides, in the node, in the loop and after it. -/
theorem parseNodeErrors : Obligations.ParseNodeErrors := by
  refine ⟨fun ceiling freq p => ⟨parseNode_of_closed, fun hopen => ?node⟩,
    fun s pad count rest hin h7 hpos hcap h32 hbytes => ?command⟩
  case node =>
    have htake (lo hi : Byte) (rest : List Byte) :
        takeLe 2 (lo :: hi :: rest) = .ok (lo.toNat + 256 * hi.toNat, rest) := by
      simp [takeLe, leValue]
    refine ⟨parseNode_nil hopen, fun tag rest h htag => parseNode_badTag hopen h htag,
      fun rest h hshort => parseNode_leaf_error hopen h (takeLe_of_lt hshort),
      fun lo hi rest h hbig => ?badSymbol, fun lo hi rest h hsmall hseen => ?dupSymbol⟩
    case badSymbol => rw [parseNode_leaf hopen h (htake lo hi rest), if_pos hbig]
    case dupSymbol => rw [parseNode_leaf hopen h (htake lo hi rest), if_neg (Nat.not_le.2 hsmall), if_pos hseen]
  case command =>
    have hhead : HeaderOk s.params s.inBytes pad count rest := hbytes ▸ headerOk_of_bytes rest h7 hpos hcap h32
    refine ⟨fun n q d hn hq hd => ?nodeRejected, fun p hp => ⟨fun hneed => ?incomplete, fun hneed => ?payload⟩⟩
    case nodeRejected =>
      exact exec_parse_error (c := .corrupt d) hin
        (parseArtifact_of_nodes_error hhead (parseNodes_of_node_error hn hq hd))
    case incomplete =>
      exact exec_parse_error (c := .corrupt .treeShape) hin
        (by rw [parseArtifact_of_nodes_ok hhead hp, if_pos hneed])
    case payload =>
      have hfail {c : Cause} (h : parsePayload s.params.pkCap pad p.rest = .error c) :
          ∃ t, exec .parse s = .next t ∧ s.FailedWith t c.code c.detail 0x41#8 :=
        exec_parse_error hin (by rw [parseArtifact_of_nodes_ok hhead hp, if_neg (not_not.2 hneed), h]; rfl)
      refine ⟨fun hshort => hfail (c := .corrupt .truncated) (parsePayload_of_takeLe_error (takeLe_of_lt hshort)),
        fun hlong => ?_⟩
      have hpay := parsePayload_of_takeLe_ok (pkCap := s.params.pkCap) (pad := pad) (takeLe_of_le hlong)
      rw [List.length_drop] at hpay
      refine ⟨fun hne => ?lenMismatch, fun hzero hlen hpad => ?badPad, fun heq hfull => ?full⟩
      case lenMismatch => exact hfail (c := .corrupt .lenMismatch) (by rw [hpay, if_pos hne])
      case badPad =>
        exact hfail (c := .corrupt .badPad) (by rw [hpay, if_neg (by omega), if_pos ⟨hpad, hzero⟩])
      case full =>
        exact hfail (c := .capacity .pk) (by rw [hpay, if_neg (by omega), if_neg (by omega), if_pos (by omega)])

end Sys2Proof.Machine
end

section
/-! SUPPORT. The parser's node loop on the bytes of a tree: it reads them as that tree, it reads nothing but the bytes of
a tree, and it finds a tree cut short truncated (43_container.md R714 to R716). -/

namespace Sys2Proof.Machine

/-! ### The symbols of a tree still to read -/

/-- The leaf symbols of `t` are below CEILING, distinct, and not among those seen, which are distinct themselves
(43_container.md R715). -/
structure TreeFits (ceiling : Nat) (t : HufTree) (seen : List Nat) : Prop where
  nodup : (t.symbols.reverse ++ seen).Nodup
  lt : ∀ x ∈ t.symbols, x < ceiling

section Fits

variable {ceiling : Nat} {seen : List Nat}

theorem treeFits_leaf {x : Nat} : TreeFits ceiling (.leaf x) seen ↔ x < ceiling ∧ x ∉ seen ∧ seen.Nodup :=
  ⟨fun h => ⟨h.lt x (List.mem_singleton_self x), List.nodup_cons.1 h.nodup⟩,
    fun ⟨hlt, hnew⟩ => ⟨List.nodup_cons.2 hnew, fun _ hy => List.mem_singleton.1 hy ▸ hlt⟩⟩

theorem treeFits_node {l r : HufTree} : TreeFits ceiling (.node l r) seen ↔
    TreeFits ceiling l seen ∧ TreeFits ceiling r (l.symbols.reverse ++ seen) := by
  have hsplit : (HufTree.node l r).symbols.reverse ++ seen =
      r.symbols.reverse ++ (l.symbols.reverse ++ seen) := by simp [HufTree.symbols]
  constructor
  · rintro ⟨hnodup, hlt⟩
    rw [hsplit] at hnodup
    obtain ⟨hltl, hltr⟩ := List.forall_mem_append.1 hlt
    exact ⟨⟨hnodup.of_append_right, hltl⟩, ⟨hnodup, hltr⟩⟩
  · rintro ⟨⟨-, hltl⟩, ⟨hnodup, hltr⟩⟩
    exact ⟨hsplit ▸ hnodup, List.forall_mem_append.2 ⟨hltl, hltr⟩⟩

theorem treeFits_nil_iff {t : HufTree} : TreeFits ceiling t [] ↔ HufTreeOk ceiling t := by
  constructor
  · rintro ⟨hnodup, hlt⟩
    exact ⟨by simpa using hnodup, hlt⟩
  · rintro ⟨hnodup, hlt⟩
    exact ⟨by simpa using hnodup, hlt⟩

end Fits

/-! ### What one node does to the slots -/

section Slots

variable {p p' : ParseState} {freq : Nat → BitVec 32} {rest : List Byte} {t : HufTree}

/-- A subtree read leaves the open internal nodes in the arena. -/
theorem SubtreeRead.stackIn (h : SubtreeRead p p' t) (hin : StackIn p.arena p.stack) : StackIn p'.arena p'.stack := by
  obtain ⟨new, harena, -⟩ := h.arena
  rw [h.stack, harena]
  exact (hin.attach _).mono (by simp)

variable (hin : StackIn p.arena p.stack)
include hin

theorem subtreeRead_addLeaf {sym : Nat} (hsym : sym < 65536) (hopen : p.need ≠ 0) :
    SubtreeRead p (p.addLeaf freq sym rest) (.leaf sym) := by
  refine ⟨Nat.sub_add_cancel (Nat.pos_of_ne_zero hopen), rfl, ?_, _, ?_, block_leaf (freq p.arena.length) hsym⟩ <;>
    simp [ParseState.addLeaf, attach_append _ _ hin]

theorem openNode_eq : p.openNode freq rest = ⟨rest, p.need + 1, p.seen,
    (p.arena.length, false) :: (attach p.arena p.stack p.arena.length).2,
    (attach p.arena p.stack p.arena.length).1 ++ [.internal 0 0 (freq p.arena.length)]⟩ := by
  simp [ParseState.openNode, attach_append _ _ hin]

theorem stackIn_openNode : StackIn (p.openNode freq rest).arena (p.openNode freq rest).stack := by
  rw [openNode_eq hin]
  exact List.forall_mem_cons.2 ⟨by simp, (hin.attach _).mono (by simp)⟩

/-- An internal node and the two subtrees read after it are one subtree. -/
theorem SubtreeRead.node {p₂ p₃ : ParseState} {l r : HufTree} (hl : SubtreeRead (p.openNode freq rest) p₂ l)
    (hr : SubtreeRead p₂ p₃ r) : SubtreeRead p p₃ (.node l r) := by
  rw [openNode_eq hin] at hl
  have hlen := attach_length p.arena p.stack p.arena.length
  obtain ⟨hstack₂, newL, harena₂, hblockL⟩ := hl.left hlen rfl rfl
  obtain ⟨hstack₃, newR, harena₃, hblockR⟩ := hr.right hlen harena₂ hstack₂
  refine ⟨?_, ?_, hstack₃, _, harena₃, block_node _ hblockL hblockR⟩
  · have hneed₂ := hl.need
    have hneed₃ := hr.need
    simp only at hneed₂
    omega
  · rw [hr.seen, hl.seen]
    simp [HufTree.symbols]

end Slots

/-! ### The bytes of a tree -/

section Bytes

variable {ceiling : Nat} {freq : Nat → BitVec 32} (hc : ceiling ≤ 65536)
include hc

theorem takeLe_leafSym {sym : Nat} (hsym : sym < ceiling) (rest : List Byte) :
    takeLe 2 (leBytes 2 sym ++ rest) = .ok (sym, rest) := takeLe_ok_iff.2 ⟨by omega, rfl⟩

theorem parseNode_serTree_leaf {p : ParseState} {sym : Nat} {rest : List Byte} (hopen : p.need ≠ 0)
    (hfit : TreeFits ceiling (.leaf sym) p.seen) (hrest : p.rest = serTree (.leaf sym) ++ rest) :
    parseNode ceiling freq p = .ok (p.addLeaf freq sym rest) := by
  obtain ⟨hlt, hnew, -⟩ := treeFits_leaf.1 hfit
  rw [parseNode_leaf hopen hrest (takeLe_leafSym hc hlt rest), if_neg (Nat.not_le.2 hlt), if_neg hnew]

/-- From the bytes of a tree that fits, the loop reads that tree into the innermost open slot. -/
theorem parseNodes_serTree {t : HufTree} {p : ParseState} {rest : List Byte} (hin : StackIn p.arena p.stack)
    (hopen : p.need ≠ 0) (hfit : TreeFits ceiling t p.seen) (hrest : p.rest = serTree t ++ rest) :
    ∃ p', parseNodes ceiling freq t.nodes p = .ok p' ∧ SubtreeRead p p' t ∧ p'.rest = rest := by
  induction t generalizing p rest with
  | leaf sym =>
    obtain ⟨hlt, -⟩ := treeFits_leaf.1 hfit
    exact ⟨p.addLeaf freq sym rest, parseNodes_cons_ok (n := 0) (parseNode_serTree_leaf hc hopen hfit hrest),
      subtreeRead_addLeaf hin (hlt.trans_le hc) hopen, rfl⟩
  | node l r ihl ihr =>
    obtain ⟨hfitl, hfitr⟩ := treeFits_node.1 hfit
    have hrest' : p.rest = 0x00#8 :: (serTree l ++ (serTree r ++ rest)) := by simp [hrest, serTree]
    obtain ⟨p₂, hloop₂, hl, hrest₂⟩ := ihl (p := p.openNode freq (serTree l ++ (serTree r ++ rest)))
      (stackIn_openNode hin) (Nat.succ_ne_zero _) hfitl rfl
    have hneed₂ : p₂.need = p.need := Nat.succ.inj hl.need
    obtain ⟨p₃, hloop₃, hr, hrest₃⟩ := ihr (hl.stackIn (stackIn_openNode hin)) (hneed₂ ▸ hopen)
      (by rw [hl.seen]; exact hfitr) hrest₂
    refine ⟨p₃, ?_, hl.node hin hr, hrest₃⟩
    rw [HufTree.nodes, Nat.add_assoc, Nat.add_comm, parseNodes_cons_ok (parseNode_internal hopen hrest'),
      parseNodes_add _ hloop₂, hloop₃]

/-- A loop that closes a slot found the bytes of a tree that fits. -/
theorem rest_eq_serTree_of_parseNodes {n : Nat} {p q : ParseState} (hin : StackIn p.arena p.stack)
    (hseen : p.seen.Nodup) (h : parseNodes ceiling freq n p = .ok q) (hneed : q.need < p.need) :
    ∃ k t rest, n = t.nodes + k ∧ p.rest = serTree t ++ rest ∧ TreeFits ceiling t p.seen := by
  induction n using Nat.strong_induction_on generalizing p with
  | _ n ih =>
  cases n with
  | zero => cases h; exact absurd hneed (Nat.lt_irrefl _)
  | succ n =>
    obtain ⟨r, hr, hloop⟩ := parseNodes_succ_ok h
    obtain ⟨hopen, tag, rest, htag, ⟨rfl, -⟩ | ⟨rfl, sym, rest', hsym, hlt, hnew, -⟩⟩ := parseNode_ok hr
    all_goals obtain ⟨-, hrest⟩ := takeLe_ok_iff.1 htag
    case inr =>
      obtain ⟨-, rfl⟩ := takeLe_ok_iff.1 hsym
      exact ⟨n, .leaf sym, rest', Nat.add_comm .., hrest, treeFits_leaf.2 ⟨hlt, hnew, hseen⟩⟩
    case inl =>
      replace hrest : p.rest = 0x00#8 :: rest := hrest
      obtain rfl : p.openNode freq rest = r := Except.ok.inj ((parseNode_internal hopen hrest).symm.trans hr)
      obtain ⟨k, tl, rest₂, rfl, hrest₂, hfitl⟩ := ih n (Nat.lt_succ_self n) (stackIn_openNode hin) hseen hloop
        (hneed.trans (Nat.lt_succ_self _))
      obtain ⟨p₂, hloop₂, hl, rfl⟩ := parseNodes_serTree hc (freq := freq) (stackIn_openNode hin)
        (Nat.succ_ne_zero _) hfitl hrest₂
      rw [parseNodes_add _ hloop₂] at hloop
      have hneed₂ : p₂.need = p.need := Nat.succ.inj hl.need
      have hseen₂ : p₂.seen.Nodup := hl.seen ▸ hfitl.nodup
      obtain ⟨k', tr, rest₃, rfl, hrest₃, hfitr⟩ := ih k (by omega) (hl.stackIn (stackIn_openNode hin)) hseen₂ hloop
        (hneed₂ ▸ hneed)
      rw [hl.seen] at hfitr
      have hrest' : rest = serTree tl ++ p₂.rest := hrest₂
      refine ⟨k', .node tl tr, rest₃, by simp only [HufTree.nodes]; omega, ?_, treeFits_node.2 ⟨hfitl, hfitr⟩⟩
      rw [hrest, hrest', hrest₃]
      simp [serTree]

/-- The bytes of a tree cut short are truncated, with the loop never leaving the tree. -/
theorem parseNodes_of_cut {t : HufTree} {p : ParseState} {e : List Byte} (k : Nat) (hin : StackIn p.arena p.stack)
    (hopen : p.need ≠ 0) (hfit : TreeFits ceiling t p.seen) (hcut : serTree t = p.rest ++ e) (he : e ≠ []) :
    parseNodes ceiling freq (t.nodes + k) p = .error (.corrupt .truncated) := by
  induction t generalizing p e k with
  | leaf sym =>
    rw [HufTree.nodes, Nat.add_comm]
    refine parseNodes_cons_error ?_
    cases hp : p.rest with
    | nil => exact parseNode_nil hopen hp
    | cons tag l =>
      rw [hp, serTree, List.cons_append, List.cons.injEq] at hcut
      obtain ⟨rfl, hcut⟩ := hcut
      exact parseNode_leaf_error hopen hp (takeLe_of_cut hcut he)
  | node l r ihl ihr =>
    obtain ⟨hfitl, hfitr⟩ := treeFits_node.1 hfit
    rw [HufTree.nodes, show 1 + l.nodes + r.nodes + k = l.nodes + (r.nodes + k) + 1 by omega]
    cases hp : p.rest with
    | nil => exact parseNodes_cons_error (parseNode_nil hopen hp)
    | cons tag rest =>
      rw [hp, serTree, List.cons_append, List.cons.injEq] at hcut
      obtain ⟨rfl, hcut⟩ := hcut
      rw [parseNodes_cons_ok (parseNode_internal hopen hp)]
      obtain ⟨e', he', hcutl⟩ | ⟨rest', hrest, hcutr⟩ := cut_cases hcut
      · exact ihl _ (stackIn_openNode hin) (Nat.succ_ne_zero _) hfitl hcutl he'
      · obtain ⟨p₂, hloop₂, hl, rfl⟩ := parseNodes_serTree hc (freq := freq) (p := p.openNode freq rest)
          (stackIn_openNode hin) (Nat.succ_ne_zero _) hfitl hrest
        have hneed₂ : p₂.need = p.need := Nat.succ.inj hl.need
        rw [parseNodes_add _ hloop₂]
        exact ihr k (hl.stackIn (stackIn_openNode hin)) (hneed₂ ▸ hopen) (by rw [hl.seen]; exact hfitr) hcutr he

end Bytes

end Sys2Proof.Machine
end

section
/-! SUPPORT. PARSE and the artifact: every artifact of a tree fit for the core is accepted, nothing else is, and a cut or
extended one is rejected (43_container.md R710 to R723). -/

namespace Sys2Proof.Machine

/-! ### Accepted artifacts -/

theorem parseNodes_of_closed {ceiling k : Nat} {freq : Nat → BitVec 32} {p q : ParseState} (hneed : p.need = 0)
    (h : parseNodes ceiling freq k p = .ok q) : k = 0 := by
  cases k with
  | zero => rfl
  | succ k => rw [parseNodes_cons_error (parseNode_of_closed hneed)] at h; cases h

/-- The subtree read into the first slot is the whole tree. -/
theorem SubtreeRead.treeMade {ceiling : Nat} {bytes : List Byte} {p' : ParseState} {t : HufTree}
    (h : SubtreeRead ⟨bytes, 1, [], [], []⟩ p' t) (hfit : HufTreeOk ceiling t) :
    p'.need = 0 ∧ TreeMade ceiling p'.arena 0 t.nodes t := by
  obtain ⟨hneed, -, -, new, rfl : p'.arena = new, hlen, hholds⟩ := h
  exact ⟨Nat.succ.inj hneed, by simpa using hholds [] [] rfl, hlen, rfl, hfit⟩

theorem parsePayload_of_bytes {pkCap pad : Nat} {pk : List Byte} (hpad : pk = [] → pad = 0) (hcap : pk.length ≤ pkCap)
    (h64 : pk.length < 256 ^ 8) : parsePayload pkCap pad (leBytes 8 pk.length ++ pk) = .ok pk := by
  have hzero : ¬(0 < pad ∧ pk.length = 0) := fun ⟨hpos, hnil⟩ => hpos.ne' (hpad (List.length_eq_zero_iff.1 hnil))
  rw [parsePayload_of_takeLe_ok (takeLe_ok_iff.2 ⟨h64, rfl⟩), if_neg (not_not.2 rfl), if_neg hzero,
    if_neg (Nat.not_lt.2 hcap)]

section Artifact

variable {params : Params} {freq : Nat → BitVec 32} (hc : params.ceiling ≤ 65536)
include hc

/-- What PARSE accepts is the artifact of what it loads (43_container.md R722, R723). -/
theorem eq_artifact_of_parseArtifact {a : List Byte} {r : Parsed} (h : parseArtifact params freq a = .ok r) :
    ∃ t, TreeMade params.ceiling r.arena r.root r.count t ∧ a = artifact t r.count r.pk r.pad := by
  obtain ⟨rest₁, rest₂, q, hpad, -, hcount, -, -, hloop, hneed, hpay, harena, hroot⟩ := parseArtifact_ok h
  obtain ⟨k, t, rest₃, hk, hrest₃, hfit⟩ := rest_eq_serTree_of_parseNodes hc (stackIn_nil _) List.nodup_nil hloop
    (by rw [hneed]; exact Nat.one_pos)
  have hok : HufTreeOk params.ceiling t := treeFits_nil_iff.1 hfit
  obtain ⟨p', hloop', hread, rfl⟩ := parseNodes_serTree hc (freq := freq) (stackIn_nil _) Nat.one_ne_zero hfit hrest₃
  obtain ⟨hneed', hmade⟩ := hread.treeMade hok
  rw [hk, parseNodes_add _ hloop'] at hloop
  obtain rfl := parseNodes_of_closed hneed' hloop
  obtain rfl : p' = q := Except.ok.inj hloop
  obtain ⟨len, hlen, rfl, -⟩ := parsePayload_ok hpay
  obtain ⟨-, rfl⟩ := takeLe_ok_iff.1 hpad
  obtain ⟨-, rfl⟩ := takeLe_ok_iff.1 hcount
  obtain ⟨-, hbytes⟩ := takeLe_ok_iff.1 hlen
  replace hrest₃ : rest₂ = serTree t ++ p'.rest := hrest₃
  refine ⟨t, by rw [harena, hroot, hk]; exact hmade, ?_⟩
  rw [hrest₃, hbytes]
  simp [artifact]

variable {tr : HufTree} {pad : Nat} (hok : HufTreeOk params.ceiling tr) (h7 : pad ≤ 7)
include hok h7

theorem headerOk_of_tree (rest : List Byte) :
    HeaderOk params (leBytes 4 pad ++ leBytes 4 tr.nodes ++ rest) pad tr.nodes rest := by
  have hlt := hok.nodes_lt
  have hpos := nodes_add_one tr
  have hleaf := symbols_length_pos tr
  exact headerOk_of_bytes rest h7 (by omega) (by rw [Params.nodeCap]; omega) (by omega)

/-- Past the header and the tree of an artifact only the length field and the payload decide. -/
theorem parseArtifact_past_tree (rest : List Byte) : ∃ arena, TreeMade params.ceiling arena 0 tr.nodes tr ∧
    parseArtifact params freq (leBytes 4 pad ++ leBytes 4 tr.nodes ++ (serTree tr ++ rest)) =
      (parsePayload params.pkCap pad rest).map fun pk => ⟨arena, 0, tr.nodes, pk, pad⟩ := by
  obtain ⟨p', hloop, hread, rfl⟩ := parseNodes_serTree hc (freq := freq) (p := ⟨serTree tr ++ rest, 1, [], [], []⟩)
    (stackIn_nil _) Nat.one_ne_zero (treeFits_nil_iff.2 hok) rfl
  obtain ⟨hneed, hmade⟩ := hread.treeMade hok
  refine ⟨p'.arena, hmade, ?_⟩
  rw [parseArtifact_of_nodes_ok (headerOk_of_tree hc hok h7 _) hloop, if_neg (not_not.2 hneed)]

theorem parseArtifact_of_payload_error {rest : List Byte} {c : Cause}
    (h : parsePayload params.pkCap pad rest = .error c) :
    parseArtifact params freq (leBytes 4 pad ++ leBytes 4 tr.nodes ++ (serTree tr ++ rest)) = .error c := by
  obtain ⟨arena, -, hparse⟩ := parseArtifact_past_tree hc (freq := freq) hok h7 rest
  rw [hparse, h]
  rfl

theorem parseArtifact_of_artifact {pk : List Byte} (hpad : pk = [] → pad = 0) (hcap : pk.length ≤ params.pkCap)
    (h64 : pk.length < 256 ^ 8) : ∃ arena, TreeMade params.ceiling arena 0 tr.nodes tr ∧
    parseArtifact params freq (artifact tr tr.nodes pk pad) = .ok ⟨arena, 0, tr.nodes, pk, pad⟩ := by
  obtain ⟨arena, hmade, hparse⟩ := parseArtifact_past_tree hc (freq := freq) hok h7 (leBytes 8 pk.length ++ pk)
  refine ⟨arena, hmade, ?_⟩
  rw [parsePayload_of_bytes hpad hcap h64] at hparse
  simpa [artifact, Except.map] using hparse

/-! ### Artifacts with a payload of another length than the length field says -/

theorem parseArtifact_of_lenMismatch {len : Nat} {pk : List Byte} (h64 : len < 256 ^ 8) (hne : len ≠ pk.length) :
    parseArtifact params freq (leBytes 4 pad ++ leBytes 4 tr.nodes ++ serTree tr ++ leBytes 8 len ++ pk) =
      .error (.corrupt .lenMismatch) := by
  rw [List.append_assoc _ (leBytes 8 len), List.append_assoc _ (serTree tr)]
  refine parseArtifact_of_payload_error hc hok h7 ?_
  rw [parsePayload_of_takeLe_ok (takeLe_ok_iff.2 ⟨h64, rfl⟩), if_pos hne]

/-- An artifact cut before its payload is truncated, whichever field the cut falls in. -/
theorem parseArtifact_of_cut_front {len : Nat} {a e : List Byte} (he : e ≠ [])
    (hcut : leBytes 4 pad ++ leBytes 4 tr.nodes ++ serTree tr ++ leBytes 8 len = a ++ e) :
    parseArtifact params freq a = .error (.corrupt .truncated) := by
  simp only [List.append_assoc] at hcut
  obtain ⟨e₁, he₁, hpad⟩ | ⟨a₁, rfl, hcut₁⟩ := cut_cases hcut
  · exact parseArtifact_of_pad_error (takeLe_of_cut hpad he₁)
  obtain ⟨e₂, he₂, hcount⟩ | ⟨a₂, rfl, hcut₂⟩ := cut_cases hcut₁
  · exact parseArtifact_of_count_error (takeLe_ok_iff.2 ⟨by omega, rfl⟩) h7 (takeLe_of_cut hcount he₂)
  rw [← List.append_assoc]
  obtain ⟨e₃, he₃, htree⟩ | ⟨a₃, rfl, hlen⟩ := cut_cases hcut₂
  · exact parseArtifact_of_nodes_error (headerOk_of_tree hc hok h7 a₂)
      (parseNodes_of_cut hc (p := ⟨a₂, 1, [], [], []⟩) 0 (stackIn_nil _) Nat.one_ne_zero (treeFits_nil_iff.2 hok) htree he₃)
  · exact parseArtifact_of_payload_error hc hok h7 (parsePayload_of_takeLe_error (takeLe_of_cut hlen he))

end Artifact

/-! ### The state loaded -/

/-- The tree `tr` and the packed bytes `pk` with `pad` padding bits are what `t` holds (43_container.md R721). -/
structure State.Loaded (t : State) (tr : HufTree) (pk : List Byte) (pad : Nat) : Prop where
  tree : t.tree? = some tr
  nodeCount : t.nodeCount.toNat = tr.nodes
  pkBytes : t.pkBytes = pk
  pkLen : t.pkLen.toNat = pk.length
  padLen : t.padLen.toNat = pad

theorem loaded_putTree_putPacked {s : State} {arena : List Node} {root count pad : Nat} {tr : HufTree} {pk : List Byte}
    (hc : s.params.ceiling ≤ 65536) (hmade : TreeMade s.params.ceiling arena root count tr) (hlen : pk.length < 2 ^ 32)
    (h7 : pad ≤ 7) : ((s.putTree arena root count).putPacked pk pad).okCompletion.Loaded tr pk pad where
  tree := tree?_putTree hmade
  nodeCount := (toNat_nodeCount_putTree hc hmade).symm
  pkBytes := by rw [okCompletion_putPacked, pkBytes_putPacked pad hlen]
  pkLen := Nat.mod_eq_of_lt hlen
  padLen := Nat.mod_eq_of_lt (Nat.lt_succ_of_le h7)

/-- Settles O36: the bytes of each field are read back as what was written. -/
theorem parseLoadsEveryArtifact : Obligations.ParseLoadsEveryArtifact := by
  intro s tr pk pad hwf hin hok h7 hpad hcap hbytes
  obtain ⟨-, hc, -, -, hpkCap⟩ := Params.bounds hwf
  obtain ⟨arena, hmade, hparse⟩ := parseArtifact_of_artifact hc (freq := Config.freeFreq s.draws) hok h7 hpad hcap
    (by omega)
  have hexec := exec_parse_ok hin (hbytes ▸ hparse)
  obtain ⟨htree, hcount, hpk, hpkLen, hpadLen⟩ :=
    loaded_putTree_putPacked (s := s.dropTokens.dropCodes) (pk := pk) hc hmade (by omega) h7
  exact ⟨_, hexec, htree, rfl, hcount, hpk, hpkLen, hpadLen, rfl, rfl, completedOk_okCompletion _,
    exec_sameHostSide hexec, ⟨rfl, fun _ => rfl⟩⟩

/-- Everything PARSE did when it completed without error. -/
theorem exec_parse_of_no_error {s t : State} (h : exec .parse s = .next t) (herr : t.err = false) :
    ∃ p, parseArtifact s.params (Config.freeFreq s.draws) s.inBytes = .ok p ∧
      t = ((s.dropTokens.dropCodes.putTree p.arena p.root p.count).putPacked p.pk p.pad).okCompletion := by
  obtain rfl := (exec_next_iff _ _ _).1 h
  obtain ⟨u, hrun, hcomplete⟩ | ⟨e, -, hcomplete⟩ := s.complete_cases (run .parse s)
  · obtain ⟨-, p, hp, rfl⟩ := parseBody_ok (stage_ok (op := .parse) (body := parseBody) hrun).2
    exact ⟨p, hp, hcomplete⟩
  · rw [hcomplete] at herr
    cases herr

/-- Settles O37: each integer taken is written back by its own bytes, and the loop reads nothing but trees. -/
theorem parseAcceptsOnlyArtifacts : Obligations.ParseAcceptsOnlyArtifacts := by
  intro s t hwf h herr
  obtain ⟨-, hc, -, -, hpkCap⟩ := Params.bounds hwf
  obtain ⟨p, hp, rfl⟩ := exec_parse_of_no_error h herr
  obtain ⟨tr, hmade, hbytes⟩ := eq_artifact_of_parseArtifact hc hp
  obtain ⟨_, _, _, -, h7, -, -, -, -, -, hpay, -⟩ := parseArtifact_ok hp
  obtain ⟨-, -, -, hpad, hcap⟩ := parsePayload_ok hpay
  obtain ⟨htree, hcount, hpk, hpkLen, hpadLen⟩ :=
    loaded_putTree_putPacked (s := s.dropTokens.dropCodes) (pk := p.pk) hc hmade (by omega) h7
  refine ⟨tr, htree, hmade.fit, hcount.symm, fun hzero => ?padding, ?bytes⟩
  case padding =>
    rw [hzero] at hpkLen
    exact BitVec.eq_of_toNat_eq (hpadLen.trans (hpad (List.length_eq_zero_iff.1 hpkLen.symm)))
  case bytes => rw [hcount, hpk, hpadLen, hbytes, hmade.nodes]

/-- Settles O40: the cut falls in a field before the payload or in the payload, whose length field then disagrees. -/
theorem cutOrExtendedArtifactsAreRejected : Obligations.CutOrExtendedArtifactsAreRejected := by
  intro s tr pk pad hwf hin hok h7 _ hcap
  obtain ⟨-, hc, -, -, hpkCap⟩ := Params.bounds hwf
  refine ⟨fun tail hcut hlong => exec_parse_error (c := .corrupt .truncated) hin ?front,
    fun tail hcut hne hshort => exec_parse_error (c := .corrupt .lenMismatch) hin ?payload,
    fun tail hext hne => exec_parse_error (c := .corrupt .lenMismatch) hin ?extended⟩
  case front =>
    obtain ⟨e, he, hfront⟩ | ⟨pk', -, hpk⟩ := cut_cases hcut
    · exact parseArtifact_of_cut_front hc hok h7 he hfront
    · rw [hpk, List.length_append] at hlong
      omega
  case payload =>
    have htail := List.length_pos_of_ne_nil hne
    obtain ⟨e, he, hfront⟩ | ⟨pk', hbytes, hpk⟩ := cut_cases hcut
    · have hlen := congrArg List.length hcut
      have hfrontLen := length_lt_of_cut hfront he
      simp only [artifact, List.length_append] at hlen hfrontLen
      omega
    · have hlen := congrArg List.length hpk
      rw [List.length_append] at hlen
      rw [hbytes]
      exact parseArtifact_of_lenMismatch hc hok h7 (by omega) (by omega)
  case extended =>
    have htail := List.length_pos_of_ne_nil hne
    rw [hext, artifact, List.append_assoc _ pk]
    exact parseArtifact_of_lenMismatch hc hok h7 (by omega) (by rw [List.length_append]; omega)

end Sys2Proof.Machine
end

section
/-! SUPPORT. The life of a command: the CMD write, the engine's turn, and the completion, which every command comes to
(44_pipeline.md R800 to R805, 60_exceptions.md R902). -/

namespace Sys2Proof.Machine

/-! ### The CMD write -/

variable {s : State}

theorem writeCmd_of_busy (v : Word) (hbusy : s.busy = true) : writeCmd s v = s := if_pos hbusy

theorem writeCmd_encode (i : Instr) (hidle : s.busy = false) : writeCmd s (encode i) = s.accept i := by
  simp [writeCmd, hidle]

/-- Settles O4: the step is `writeCmd`, whose branches are BUSY, an illegal word and a legal one. -/
theorem cmdWriteFollowsTheIssueRule : Obligations.CmdWriteFollowsTheIssueRule := by
  intro s v rest hag
  rw [step_cmdWrite hag]
  refine ⟨fun hbusy => ?busy, fun hidle hillegal => ?illegal, fun hidle i hlegal => ?legal⟩
  case busy => exact congrArg _ (writeCmd_of_busy v hbusy)
  case illegal => exact congrArg _ (writeCmd_of_illegal hidle (decode_of_ne_encode hillegal))
  case legal => rw [hlegal]; exact congrArg _ (writeCmd_encode i hidle)

/-! ### The engine's turn -/

theorem engineTurn_of_idle (h : s.engine = .idle) : engineTurn s = .next s := by rw [engineTurn, h]

theorem engineTurn_of_running {i : Instr} (h : s.engine = .running i) : engineTurn s = exec i s := by
  rw [engineTurn, h]

theorem step_of_no_event (h : s.agenda = []) : step s = engineTurn s := by rw [step, h]

theorem step_engine {rest : List Event} (h : s.agenda = .engine :: rest) :
    step s = engineTurn { s with agenda := rest } := by rw [step, h]

/-- A command's own word, placed by `withFetchWord`, is its acceptance with the engine's turn next (log 18). -/
theorem withFetchWord_encode (s : State) (i : Instr) :
    s.withFetchWord 32 (encode i).toNat = { s.accept i with agenda := .engine :: s.agenda } := by
  simp [State.withFetchWord]

/-- Settles O3: the step is the engine's turn, and the word placed is decoded to the command accepted. -/
theorem stepRunsThePendingCommand : Obligations.StepRunsThePendingCommand := by
  refine ⟨fun s i hrun hag => ?_, fun s i rest hrun hag => ?_, fun s hidle hag => ?_, fun s rest hidle hag => ?_,
    fun s i => ?_⟩
  · rw [step_of_no_event hag, engineTurn_of_running hrun]
  · rw [step_engine hag]; exact engineTurn_of_running hrun
  · rw [step_of_no_event hag, engineTurn_of_idle hidle]
  · rw [step_engine hag]; exact engineTurn_of_idle hidle
  · rw [withFetchWord_encode, step_engine rfl]; exact engineTurn_of_running rfl

/-! ### The completion -/

/-- What every completion leaves of the engine, STATUS, ERROR and PROGRESS (44_pipeline.md R803, 60_exceptions.md
R910). -/
theorem State.complete_life (s : State) (r : Except CmdError State) :
    (s.complete r).engine = .idle ∧ (s.complete r).done = true ∧
    (s.complete r).err = decide ((s.complete r).error.code ≠ 0#8) ∧
    ((s.complete r).err = false → (s.complete r).error = ErrorReg.none ∧ (s.complete r).progress = 100#7) := by
  cases r with
  | ok t => exact ⟨rfl, rfl, rfl, fun _ => ⟨rfl, rfl⟩⟩
  | error e => exact ⟨rfl, rfl, (decide_eq_true e.cause.code_bounds.1).symm, nofun⟩

/-- Settles O6: every command is a completion, and none changes IRQ_EN. -/
theorem everyCommandCompletes : Obligations.EveryCommandCompletes := by
  intro i s
  have hexec := exec_eq_complete i s
  obtain ⟨hidle, hdone, herr, hok⟩ := s.complete_life (run i s)
  refine ⟨_, hexec, hidle, hdone, herr, hok, ?_⟩
  rw [State.irq, hdone, (exec_sameHostSide hexec).irqEn, Bool.and_true]

/-! ### The composites' own checks -/

theorem runCompress_of_empty (h : s.inLen = 0#32) : runCompress s = .error ⟨.emptyInput, .compress⟩ := if_pos h

theorem runCompress_of_overflow (h0 : s.inLen ≠ 0#32) (h : s.params.inCap < s.inLen.toNat) :
    runCompress s = .error ⟨.capacity .inp, .compress⟩ := by rw [runCompress, if_neg h0, if_pos h]

theorem runDecompress_of_overflow (h : s.params.inCap < s.inLen.toNat) :
    runDecompress s = .error ⟨.capacity .inp, .decompress⟩ := if_pos h

/-- Settles O42: each check fails before any stage runs. -/
theorem compositesCheckTheirInputFirst : Obligations.CompositesCheckTheirInputFirst :=
  fun _ => ⟨fun hzero => exec_of_run_error (i := .compress) (runCompress_of_empty hzero),
    fun hne hlong => exec_of_run_error (i := .compress) (runCompress_of_overflow hne hlong),
    fun hlong => exec_of_run_error (i := .decompress) (runDecompress_of_overflow hlong)⟩

end Sys2Proof.Machine
end

section
/-! SUPPORT. Views: what a command can tell of a state, as plain sequences and a tree, without the memories, the handles
and the free values that hold them; each stage and each command as a function of views (44_pipeline.md R802, R810,
R851). -/

namespace Sys2Proof.Machine

/-- The parameters, the input, and of each destination what is defined in it, if anything is. -/
structure View where
  params : Params
  input : List Byte
  tok : Option (List Nat)
  tree : Option HufTree
  codes : Option (Sparse Bits)
  /-- the packed bytes and the padding length -/
  pk : Option (List Byte × Nat)
  out : Option (List Byte)

/-- The tree that the nodes hold from `root` on; with none, the default tree, which no command meets. -/
def treeOf (params : Params) (arena : List Node) (root : Nat) : HufTree :=
  (readTree (Sparse.ofList arena) params.nodeCap root).getD default

theorem treeOf_of_readTree {params : Params} {arena : List Node} {root : Nat} {tr : HufTree}
    (h : readTree (Sparse.ofList arena) params.nodeCap root = some tr) : treeOf params arena root = tr := by
  rw [treeOf, h, Option.getD_some]

/-- The tree that HUF_BUILD makes of the tokens (41_huffman.md R518). -/
def builtTree (params : Params) (toks : List Nat) : HufTree :=
  treeOf params (hufBuild params.ceiling toks).arena (hufBuild params.ceiling toks).root

theorem TreeMade.readTree_eq {params : Params} {arena : List Node} {root count : Nat} {tr : HufTree}
    (h : TreeMade params.ceiling arena root count tr) :
    readTree (Sparse.ofList arena) params.nodeCap root = some tr :=
  h.holds.readTree_eq (by have := h.fit.nodes_lt; rw [Params.nodeCap]; omega)

theorem TreeMade.treeOf_eq {params : Params} {arena : List Node} {root count : Nat} {tr : HufTree}
    (h : TreeMade params.ceiling arena root count tr) : treeOf params arena root = tr :=
  treeOf_of_readTree h.readTree_eq

namespace View

variable (v : View)

/-- Nothing but the input. -/
def blank (params : Params) (input : List Byte) : View := ⟨params, input, none, none, none, none, none⟩

def valid : Valid := ⟨v.tok.isSome, v.tree.isSome, v.codes.isSome, v.pk.isSome⟩

def tokens : List Nat := v.tok.getD []

def huf : HufTree := v.tree.getD default

def nodeCount : Nat := (v.tree.map HufTree.nodes).getD 0

def packed : List Byte × Nat := v.pk.getD ([], 0)

/-! ### The stages -/

def lzwEncodeBody : Except Cause View :=
  if v.params.inCap < v.input.length then .error (.capacity .inp)
  else (lzwEncode v.params.ceiling v.params.tokCap v.input).map fun t =>
    { v with tok := some t, tree := none, codes := none, pk := none }

def lzwDecodeBody : Except Cause View :=
  (lzwDecode v.params.ceiling v.params.outCap v.tokens).map fun b => { v with out := some b }

def hufBuildBody : Except Cause View :=
  if v.tokens = [] then .error .emptyInput
  else .ok { v with tree := some (builtTree v.params v.tokens), codes := none, pk := none }

def hufCodegenBody : Except Cause View := .ok { v with codes := some (codeTable v.huf) }

def packBody : Except Cause View :=
  (packTokens (v.codes.getD []) v.params.pkCap v.tokens).map fun p => { v with pk := some p }

def unpackBody : Except Cause View :=
  (unpackTokens v.params.tokCap v.huf v.packed.1 v.packed.2).map fun t => { v with tok := some t }

def serializeBody : Except Cause View :=
  (serializeArtifact v.params.outCap v.huf v.nodeCount v.packed.1 v.packed.2).map fun a => { v with out := some a }

/-- The frequency fields, which are free in the arena (93 U8), do not reach the tree, so that any will do. -/
def parseBody : Except Cause View :=
  if v.params.inCap < v.input.length then .error (.capacity .inp)
  else (parseArtifact v.params (fun _ => 0#32) v.input).map fun p =>
    { v with tok := none, tree := some (treeOf v.params p.arena p.root), codes := none, pk := some (p.pk, p.pad) }

/-- A stage's *requires* check, then its body. -/
def stage (op : Instr) (body : View → Except Cause View) (v : View) : Except CmdError View :=
  if ((requires op).missing v.valid).isNone then (body v).mapError fun c => ⟨c, op⟩
  else .error ⟨.sequence ((requires op).missing v.valid), op⟩

/-! ### The commands -/

/-- Past COMPRESS's own checks. -/
def compressStages : Except CmdError View :=
  (stage .lzwEncode lzwEncodeBody v).bind fun v => (stage .hufBuild hufBuildBody v).bind fun v =>
    (stage .hufCodegen hufCodegenBody v).bind fun v => (stage .pack packBody v).bind (stage .serialize serializeBody)

/-- Past DECOMPRESS's own check. -/
def decompressStages : Except CmdError View :=
  (stage .parse parseBody v).bind fun v => (stage .unpack unpackBody v).bind (stage .lzwDecode lzwDecodeBody)

/-- What a command comes to, as a function of views (44_pipeline.md R802). -/
def run : Instr → Except CmdError View
  | .compress =>
    if v.input = [] then .error ⟨.emptyInput, .compress⟩
    else if v.params.inCap < v.input.length then .error ⟨.capacity .inp, .compress⟩
    else v.compressStages
  | .decompress =>
    if v.params.inCap < v.input.length then .error ⟨.capacity .inp, .decompress⟩ else v.decompressStages
  | .lzwEncode => stage .lzwEncode lzwEncodeBody v
  | .lzwDecode => stage .lzwDecode lzwDecodeBody v
  | .hufBuild => stage .hufBuild hufBuildBody v
  | .hufCodegen => stage .hufCodegen hufCodegenBody v
  | .pack => stage .pack packBody v
  | .unpack => stage .unpack unpackBody v
  | .serialize => stage .serialize serializeBody v
  | .parse => stage .parse parseBody v

end View

end Sys2Proof.Machine
end

section
/-! SUPPORT. The frequency fields of parsed nodes are free (93_implementation_defined.md U8) and reach nothing else of
what PARSE makes: neither its errors nor the tree, the packed bytes and the padding. Outcomes in sequence, which this
and the composites need, come first. -/

namespace Sys2Proof.Machine

/-! ### Outcomes in sequence -/

section Except

variable {ε ε' α β : Type} {x : Except ε α}

theorem except_bind_eq_ok {f : α → Except ε β} {b : β} : x.bind f = .ok b ↔ ∃ a, x = .ok a ∧ f a = .ok b := by
  cases x <;> simp [Except.bind]

theorem except_bind_eq_error {f : α → Except ε β} {e : ε} :
    x.bind f = .error e ↔ x = .error e ∨ ∃ a, x = .ok a ∧ f a = .error e := by
  cases x <;> simp [Except.bind]

theorem except_map_eq_ok {f : α → β} {b : β} : x.map f = .ok b ↔ ∃ a, x = .ok a ∧ f a = b := by
  cases x <;> simp [Except.map]

theorem except_map_eq_error {f : α → β} {e : ε} : x.map f = .error e ↔ x = .error e := by
  cases x <;> simp [Except.map]

theorem except_mapError_eq_ok {f : ε → ε'} {a : α} : x.mapError f = .ok a ↔ x = .ok a := by
  cases x <;> simp [Except.mapError]

theorem except_mapError_eq_error {f : ε → ε'} {e : ε'} : x.mapError f = .error e ↔ ∃ c, x = .error c ∧ f c = e := by
  cases x <;> simp [Except.mapError]

theorem except_mapError_map (x : Except ε α) (f : α → β) (g : ε → ε') :
    (x.map f).mapError g = (x.mapError g).map f := by cases x <;> rfl

theorem except_map_bind {γ : Type} (x : Except ε α) (f : α → β) (g : β → Except ε γ) :
    (x.map f).bind g = x.bind fun a => g (f a) := by cases x <;> rfl

end Except

/-! ### The loop -/

/-- The parser's state but for what its nodes hold. -/
def ParseState.shape (p : ParseState) : List Byte × Nat × List Nat × List (Nat × Bool) × Nat :=
  (p.rest, p.need, p.seen, p.stack, p.arena.length)

theorem attach_stack_eq (A B : List Node) (S : List (Nat × Bool)) (i : Nat) : (attach A S i).2 = (attach B S i).2 := by
  match S with
  | [] | (_, false) :: _ | (_, true) :: _ => rfl

variable {ceiling : Nat} {freq freq' : Nat → BitVec 32} {p q : ParseState}

theorem shape_openNode (h : p.shape = q.shape) (rest : List Byte) :
    (p.openNode freq rest).shape = (q.openNode freq' rest).shape := by
  simp only [ParseState.shape, Prod.mk.injEq] at h
  obtain ⟨-, hneed, hseen, hstack, hlen⟩ := h
  simp only [ParseState.shape, ParseState.openNode, hneed, hseen, hstack, hlen, attach_length, List.length_append,
    List.length_singleton]
  rw [attach_stack_eq]

theorem shape_addLeaf (h : p.shape = q.shape) (sym : Nat) (rest : List Byte) :
    (p.addLeaf freq sym rest).shape = (q.addLeaf freq' sym rest).shape := by
  simp only [ParseState.shape, Prod.mk.injEq] at h
  obtain ⟨-, hneed, hseen, hstack, hlen⟩ := h
  simp only [ParseState.shape, ParseState.addLeaf, hneed, hseen, hstack, hlen, attach_length, List.length_append,
    List.length_singleton]
  rw [attach_stack_eq]

theorem parseNode_shape (h : p.shape = q.shape) :
    (parseNode ceiling freq p).map ParseState.shape = (parseNode ceiling freq' q).map ParseState.shape := by
  have hopenNode := shape_openNode (freq := freq) (freq' := freq') h
  have haddLeaf := shape_addLeaf (freq := freq) (freq' := freq') h
  obtain ⟨l, need, seen, stack, A⟩ := p
  obtain ⟨_, _, _, _, B⟩ := q
  simp only [ParseState.shape, Prod.mk.injEq] at h
  obtain ⟨rfl, rfl, rfl, rfl, -⟩ := h
  simp only [parseNode]
  by_cases hclosed : need = 0
  · simp only [hclosed, if_true]
  simp only [hclosed, if_false]
  cases takeLe 1 l with
  | error c => rfl
  | ok tagged =>
    obtain ⟨tag, rest⟩ := tagged
    match tag with
    | 0 => exact congrArg Except.ok (hopenNode rest)
    | 1 =>
      simp only [one_ne_zero, if_false, if_true]
      cases takeLe 2 rest with
      | error c => rfl
      | ok symbol =>
        obtain ⟨sym, rest'⟩ := symbol
        by_cases hbig : ceiling ≤ sym
        · simp only [hbig, if_true]
        by_cases hseen : sym ∈ seen
        · simp only [hbig, hseen, if_true, if_false]
        · simp only [hbig, hseen, if_false]
          exact congrArg Except.ok (haddLeaf sym rest')
    | tag + 2 => rfl

theorem parseNodes_shape {n : Nat} (h : p.shape = q.shape) :
    (parseNodes ceiling freq n p).map ParseState.shape = (parseNodes ceiling freq' n q).map ParseState.shape := by
  induction n generalizing p q with
  | zero => exact congrArg Except.ok h
  | succ n ih =>
    have hnode := parseNode_shape (ceiling := ceiling) (freq := freq) (freq' := freq') h
    rw [parseNodes, parseNodes]
    cases hp : parseNode ceiling freq p <;> cases hq : parseNode ceiling freq' q <;> rw [hp, hq] at hnode
    · exact congrArg Except.error (Except.error.inj hnode)
    · cases hnode
    · cases hnode
    · exact ih (Except.ok.inj hnode)

/-! ### The whole artifact -/

/-- An artifact's header is rejected, whatever the frequencies are, or it passes its checks. -/
theorem header_cases (params : Params) (a : List Byte) :
    (∃ d, ∀ freq, parseArtifact params freq a = .error (.corrupt d)) ∨
    ∃ pad count rest, HeaderOk params a pad count rest := by
  cases hpad : takeLe 4 a with
  | error c => exact .inl ⟨.truncated, fun _ => (takeLe_error hpad).1 ▸ parseArtifact_of_pad_error hpad⟩
  | ok field =>
  obtain ⟨pad, rest⟩ := field
  by_cases h7 : 7 < pad
  · exact .inl ⟨.badPad, fun _ => parseArtifact_of_badPad hpad h7⟩
  have h7' := Nat.le_of_not_lt h7
  cases hcount : takeLe 4 rest with
  | error c => exact .inl ⟨.truncated, fun _ => (takeLe_error hcount).1 ▸ parseArtifact_of_count_error hpad h7' hcount⟩
  | ok field =>
  obtain ⟨count, rest'⟩ := field
  by_cases hbad : count = 0 ∨ params.nodeCap < count
  · exact .inl ⟨.treeShape, fun _ => parseArtifact_of_badCount hpad h7' hcount hbad⟩
  · exact .inr ⟨pad, count, rest', ⟨rest, hpad, hcount⟩, h7', by omega⟩

/-- An artifact is rejected for the same cause whatever the frequencies are. -/
theorem parseArtifact_error_any_freq {params : Params} {a : List Byte} {c : Cause}
    (h : parseArtifact params freq a = .error c) : parseArtifact params freq' a = .error c := by
  obtain ⟨d, hd⟩ | ⟨pad, count, rest, hhead⟩ := header_cases params a
  · rw [hd] at h ⊢; exact h
  have hloop := parseNodes_shape (ceiling := params.ceiling) (freq := freq) (freq' := freq') (n := count)
    (p := ⟨rest, 1, [], [], []⟩) rfl
  cases hp : parseNodes params.ceiling freq count ⟨rest, 1, [], [], []⟩ <;>
    cases hq : parseNodes params.ceiling freq' count ⟨rest, 1, [], [], []⟩ <;> rw [hp, hq] at hloop
  case error.ok | ok.error => cases hloop
  case error.error =>
    rw [parseArtifact_of_nodes_error hhead hp] at h
    exact (parseArtifact_of_nodes_error hhead hq).trans ((congrArg _ (Except.error.inj hloop).symm).trans h)
  case ok.ok p q =>
    have hshape : p.shape = q.shape := Except.ok.inj hloop
    simp only [ParseState.shape, Prod.mk.injEq] at hshape
    obtain ⟨hrest, hneed, -⟩ := hshape
    rw [parseArtifact_of_nodes_ok hhead hp, hrest, hneed] at h
    rw [parseArtifact_of_nodes_ok hhead hq]
    split_ifs at h ⊢
    · exact h
    · exact except_map_eq_error.2 (except_map_eq_error.1 h)

/-- An artifact is accepted whatever the frequencies are, with the same tree, packed bytes and padding. -/
theorem parseArtifact_ok_any_freq {params : Params} (hwf : params.wf = true) {a : List Byte} {r : Parsed}
    (h : parseArtifact params freq a = .ok r) :
    ∃ r' t, parseArtifact params freq' a = .ok r' ∧ TreeMade params.ceiling r.arena r.root r.count t ∧
      TreeMade params.ceiling r'.arena r'.root r'.count t ∧ r'.pk = r.pk ∧ r'.pad = r.pad := by
  obtain ⟨-, hc, -, -, hpkCap⟩ := Params.bounds hwf
  obtain ⟨-, -, -, -, h7, -⟩ := parseArtifact_ok h
  obtain ⟨hlen, hpad⟩ := parseArtifact_pk_bounds h
  obtain ⟨t, hmade, rfl⟩ := eq_artifact_of_parseArtifact hc h
  obtain ⟨arena, hmade', hparse⟩ :=
    parseArtifact_of_artifact hc (freq := freq') hmade.fit h7 hpad hlen (by omega)
  rw [hmade.nodes] at hparse hmade'
  exact ⟨_, t, hparse, hmade, hmade', rfl, rfl⟩

end Sys2Proof.Machine
end

section
/-! SUPPORT. What a state shows: a view of it, which no free value reaches, so that the life of a command, the host's
reads and whatever lies in a buffer without its valid bit leave it as it is (44_pipeline.md R802, 60_exceptions.md
R911). -/

namespace Sys2Proof.Machine

variable {s : State} {v : View}

/-- The state agrees with the view on the parameters, the input and the output, whatever else it holds. -/
structure State.Given (s : State) (v : View) : Prop where
  params : s.params = v.params
  wf : v.params.wf = true
  input : s.inBytes = v.input
  out : ∀ b ∈ v.out, ∀ n, State.outBytes { s with draws := n } = b

/-- The state shows the view: what its valid bits vouch for is there, whatever the free values are. -/
structure State.Shows (s : State) (v : View) : Prop where
  params : s.params = v.params
  wf : v.params.wf = true
  input : s.inBytes = v.input
  out : ∀ b ∈ v.out, ∀ n, State.outBytes { s with draws := n } = b
  valid : s.valid = v.valid
  tokens : ∀ n, State.tokens { s with draws := n } = v.tokens
  tokLt : ∀ x ∈ v.tokens, x < v.params.ceiling
  tree : ∀ tr ∈ v.tree, s.tree? = some tr ∧ HufTreeOk v.params.ceiling tr
  nodeCount : s.nodeCount.toNat = v.nodeCount
  codes : ∀ c ∈ v.codes, s.codes = c
  pkBytes : ∀ n, State.pkBytes { s with draws := n } = v.packed.1
  padLen : s.padLen.toNat = v.packed.2

theorem State.Shows.given (h : s.Shows v) : s.Given v := ⟨h.params, h.wf, h.input, h.out⟩

theorem outBytes_length (s : State) : s.outBytes.length = s.outLen.toNat := by simp [State.outBytes]

/-! ### The state without its free values and the life of a command -/

/-- A state's data, IN_MEM and IN_LEN with it: all that a view is of. -/
def State.content (s : State) : Data × BitVec 32 × Memory × Nat := (s.data, s.inLen, s.inMem, s.inGen)

theorem State.Shows.of_content_eq {t : State} (h : s.Shows v) (heq : t.content = s.content) : t.Shows v := by
  cases s
  cases t
  simp only [State.content, State.data, Prod.mk.injEq, Data.mk.injEq] at heq
  obtain ⟨⟨rfl, rfl, rfl, rfl, rfl, rfl, rfl, rfl, rfl, rfl, rfl, rfl, rfl⟩, rfl, rfl, rfl⟩ := heq
  exact ⟨h.params, h.wf, h.input, h.out, h.valid, h.tokens, h.tokLt, h.tree, h.nodeCount, h.codes, h.pkBytes, h.padLen⟩

theorem State.Shows.okCompletion (h : s.Shows v) : s.okCompletion.Shows v := h.of_content_eq rfl

/-! ### The destinations -/

/-- A state that shows nothing but its input, once its destinations are cleared. -/
theorem State.Given.dropAll (h : s.Given v) : s.dropTokens.dropTree.dropCodes.dropPacked.Shows
    { v with tok := none, tree := none, codes := none, pk := none } where
  params := h.params
  wf := h.wf
  input := h.input
  out := h.out
  valid := rfl
  tokens _ := rfl
  tokLt := nofun
  tree := nofun
  nodeCount := rfl
  codes := nofun
  pkBytes _ := rfl
  padLen := rfl

theorem State.Shows.dropCodes (h : s.Shows v) : s.dropCodes.Shows { v with codes := none } :=
  { h with valid := by simp [h.valid, View.valid], codes := nofun }

theorem State.Shows.dropPacked (h : s.Shows v) : s.dropPacked.Shows { v with pk := none } :=
  { h with valid := by simp [h.valid, View.valid], pkBytes := fun _ => rfl, padLen := rfl }

/-- Tokens below CEILING, no more than TOK_CAP, fit TOK_MEM's entries and TOK_LEN. -/
theorem State.Shows.putTokens (h : s.Shows v) {toks : List Nat} (hlt : ∀ x ∈ toks, x < v.params.ceiling)
    (hlen : toks.length ≤ v.params.tokCap) : (s.putTokens toks).Shows { v with tok := some toks } := by
  obtain ⟨-, hceil, -, hcap, -⟩ := Params.bounds h.wf
  exact { h with
    valid := by simp [h.valid, View.valid]
    tokens := fun n => tokens_putTokens (s := { s with draws := n }) (by omega) fun x hx => (hlt x hx).trans_le hceil
    tokLt := hlt }

theorem State.Shows.putTree (h : s.Shows v) {arena : List Node} {root count : Nat} {tr : HufTree}
    (hmade : TreeMade v.params.ceiling arena root count tr) :
    (s.putTree arena root count).Shows { v with tree := some tr } := by
  obtain ⟨-, hceil, -⟩ := Params.bounds h.wf
  rw [← h.params] at hmade hceil
  exact { h with
    valid := by simp [h.valid, View.valid]
    tree := by
      rintro _ ⟨⟩
      exact ⟨tree?_putTree hmade, h.params ▸ hmade.fit⟩
    nodeCount := (toNat_nodeCount_putTree hceil hmade).symm }

theorem State.Shows.putCodes (h : s.Shows v) (codes : Sparse Bits) :
    (s.putCodes codes).Shows { v with codes := some codes } :=
  { h with valid := by simp [h.valid, View.valid], codes := by rintro _ ⟨⟩; rfl }

theorem State.Shows.putPacked (h : s.Shows v) {pk : List Byte} {pad : Nat} (hlen : pk.length ≤ v.params.pkCap)
    (hpad : pad ≤ 7) : (s.putPacked pk pad).Shows { v with pk := some (pk, pad) } := by
  obtain ⟨-, -, -, -, hcap⟩ := Params.bounds h.wf
  exact { h with
    valid := by simp [h.valid, View.valid]
    pkBytes := fun n => pkBytes_putPacked (s := { s with draws := n }) pad (by omega)
    padLen := Nat.mod_eq_of_lt (Nat.lt_succ_of_le hpad) }

theorem State.Shows.putOut (h : s.Shows v) {b : List Byte} (hlen : b.length ≤ v.params.outCap) :
    (s.putOut b).Shows { v with out := some b } := by
  obtain ⟨-, -, hcap, -⟩ := Params.bounds h.wf
  exact { h with
    out := by
      rintro _ ⟨⟩ n
      exact outBytes_putOut (s := { s with draws := n }) (by omega) }

end Sys2Proof.Machine
end

section
/-! SUPPORT. Each stage and each command comes, on a state that shows a view, to a state that shows what it comes to on
the view, or to the same error; so the results of a command are a function of the view (44_pipeline.md R802, R810,
R851). -/

namespace Sys2Proof.Machine

/-- The same error, or a state that shows the view. -/
inductive Matches {ε : Type} : Except ε State → Except ε View → Prop where
  | ok {t : State} {v : View} (h : t.Shows v) : Matches (.ok t) (.ok v)
  | error (e : ε) : Matches (.error e) (.error e)

variable {s : State} {v : View}

/-! ### The functions of the stages -/

theorem inBytes_eq_nil_iff (s : State) : s.inBytes = [] ↔ s.inLen = 0#32 := by
  rw [← List.length_eq_zero_iff, inBytes_length, ← BitVec.toNat_inj]
  rfl

theorem State.Given.input_length (h : s.Given v) : v.input.length = s.inLen.toNat := by
  rw [← h.input, inBytes_length]

/-- LZW_ENCODE reads nothing but the input. -/
theorem State.Given.lzwEncodeBody_matches (h : s.Given v) : Matches (lzwEncodeBody s) v.lzwEncodeBody := by
  obtain ⟨hceil, -⟩ := Params.bounds h.wf
  simp only [lzwEncodeBody, View.lzwEncodeBody, h.params, h.input, ← h.input_length]
  split
  · exact .error _
  cases htoks : lzwEncode v.params.ceiling v.params.tokCap v.input with
  | error c => exact .error c
  | ok toks =>
    obtain ⟨hlt, hlen⟩ := lzwEncode_bounds hceil htoks
    exact .ok (h.dropAll.putTokens hlt hlen)

/-- PARSE reads nothing but the input. -/
theorem State.Given.parseBody_matches (h : s.Given v) : Matches (parseBody s) v.parseBody := by
  simp only [parseBody, View.parseBody, h.params, h.input, ← h.input_length]
  split
  · exact .error _
  cases hparse : parseArtifact v.params (Config.freeFreq s.draws) v.input with
  | error c => rw [parseArtifact_error_any_freq hparse]; exact .error c
  | ok p =>
    obtain ⟨q, tr, hq, hmade, hmade', hpk, hpad⟩ := parseArtifact_ok_any_freq (freq' := fun _ => 0#32) h.wf hparse
    obtain ⟨-, -, -, -, h7, -⟩ := parseArtifact_ok hparse
    rw [hq, Except.map, hmade'.treeOf_eq, hpk, hpad]
    exact .ok ((h.dropAll.putTree hmade).putPacked (parseArtifact_pk_bounds hparse).1 h7)

section Shows

variable (h : s.Shows v)
include h

theorem State.Shows.tokens_eq : s.tokens = v.tokens := h.tokens s.draws

theorem State.Shows.pkBytes_eq : s.pkBytes = v.packed.1 := h.pkBytes s.draws

theorem State.Shows.codes_eq (hcodes : v.valid.codes = true) : s.codes = v.codes.getD [] := by
  obtain ⟨c, hc⟩ := Option.isSome_iff_exists.1 hcodes
  rw [h.codes c hc, hc, Option.getD_some]

theorem State.Shows.tree_eq (htree : v.valid.tree = true) :
    s.tree = v.huf ∧ HufTreeOk v.params.ceiling v.huf := by
  obtain ⟨tr, htr⟩ := Option.isSome_iff_exists.1 htree
  obtain ⟨hread, hok⟩ := h.tree tr htr
  rw [View.huf, htr, Option.getD_some]
  exact ⟨State.tree_eq_of_some hread, hok⟩

theorem State.Shows.lzwDecodeBody_matches : Matches (lzwDecodeBody s) v.lzwDecodeBody := by
  simp only [lzwDecodeBody, View.lzwDecodeBody, h.params, h.tokens_eq]
  cases hb : lzwDecode v.params.ceiling v.params.outCap v.tokens with
  | error c => exact .error c
  | ok b => exact .ok (h.putOut (lzwDecode_length_le hb))

theorem State.Shows.hufBuildBody_matches : Matches (hufBuildBody s) v.hufBuildBody := by
  obtain ⟨-, hceil, -⟩ := Params.bounds h.wf
  simp only [hufBuildBody, View.hufBuildBody, h.params, h.tokens_eq]
  by_cases hnil : v.tokens = []
  · rw [if_pos hnil, if_pos hnil]; exact .error _
  obtain ⟨tr, hmade, -⟩ := hufBuild_treeMade hceil hnil h.tokLt
  rw [if_neg hnil, if_neg hnil, builtTree, hmade.treeOf_eq]
  exact .ok (h.dropCodes.dropPacked.putTree hmade)

theorem State.Shows.hufCodegenBody_matches (htree : v.valid.tree = true) :
    Matches (hufCodegenBody s) v.hufCodegenBody := by
  rw [hufCodegenBody_eq, (h.tree_eq htree).1]
  exact .ok (h.putCodes _)

theorem State.Shows.packBody_matches (hcodes : v.valid.codes = true) : Matches (packBody s) v.packBody := by
  simp only [packBody, View.packBody, h.params, h.tokens_eq, h.codes_eq hcodes]
  cases hpack : packTokens (v.codes.getD []) v.params.pkCap v.tokens with
  | error c => exact .error c
  | ok p =>
    obtain ⟨B, -, -, -, hpad⟩ := packTokens_ok hpack
    exact .ok (h.putPacked (packTokens_bounds hpack).1 (hpad ▸ Nat.le_of_lt_succ (padFor_lt _)))

theorem State.Shows.unpackBody_matches (htree : v.valid.tree = true) : Matches (unpackBody s) v.unpackBody := by
  obtain ⟨htr, hok⟩ := h.tree_eq htree
  simp only [unpackBody, View.unpackBody, h.params, htr, h.pkBytes_eq, h.padLen]
  cases htoks : unpackTokens v.params.tokCap v.huf v.packed.1 v.packed.2 with
  | error c => exact .error c
  | ok toks =>
    obtain ⟨hsub, hlen⟩ := unpackTokens_tokensFit htoks
    exact .ok (h.putTokens (fun x hx => hok.2 x (hsub hx)) hlen)

theorem State.Shows.serializeBody_matches (htree : v.valid.tree = true) :
    Matches (serializeBody s) v.serializeBody := by
  simp only [serializeBody, View.serializeBody, h.params, (h.tree_eq htree).1, h.nodeCount, h.pkBytes_eq, h.padLen]
  cases ha : serializeArtifact v.params.outCap v.huf v.nodeCount v.packed.1 v.packed.2 with
  | error c => exact .error c
  | ok a => exact .ok (h.putOut (serializeArtifact_ok ha).2)

end Shows

/-! ### The stages -/

theorem View.stage_of_valid {op : Instr} {body : View → Except Cause View}
    (h : ((requires op).missing v.valid).isNone = true) :
    View.stage op body v = (body v).mapError fun c => ⟨c, op⟩ := if_pos h

theorem View.stage_of_missing {op : Instr} {body : View → Except Cause View}
    (h : ((requires op).missing v.valid).isNone = false) :
    View.stage op body v = .error ⟨.sequence ((requires op).missing v.valid), op⟩ := if_neg (Bool.eq_false_iff.1 h)

/-- A stage that finds the same bits missing in the state and in the view matches as its function does. -/
theorem Matches.stage {op : Instr} {body : State → Except Cause State} {body' : View → Except Cause View}
    (hmissing : (requires op).missing s.valid = (requires op).missing v.valid)
    (h : ((requires op).missing v.valid).isNone = true → Matches (body s) (body' v)) :
    Matches (stage op body s) (View.stage op body' v) := by
  cases hnone : ((requires op).missing v.valid).isNone with
  | false =>
    rw [stage_of_missing (hmissing ▸ hnone), View.stage_of_missing hnone, hmissing]
    exact .error _
  | true =>
    rw [stage_of_valid (hmissing ▸ hnone), View.stage_of_valid hnone]
    have hbody := h hnone
    generalize body s = x, body' v = y at hbody
    cases hbody with
    | ok ht => exact .ok ht
    | error c => exact .error _

theorem State.Given.lzwEncode_matches (h : s.Given v) : Matches (run .lzwEncode s) (v.run .lzwEncode) :=
  .stage (op := .lzwEncode) rfl fun _ => h.lzwEncodeBody_matches

theorem State.Given.parse_matches (h : s.Given v) : Matches (run .parse s) (v.run .parse) :=
  .stage (op := .parse) rfl fun _ => h.parseBody_matches

section Shows

variable (h : s.Shows v)
include h

theorem State.Shows.lzwDecode_matches : Matches (run .lzwDecode s) (v.run .lzwDecode) :=
  .stage (by rw [h.valid]) fun _ => h.lzwDecodeBody_matches

theorem State.Shows.hufBuild_matches : Matches (run .hufBuild s) (v.run .hufBuild) :=
  .stage (by rw [h.valid]) fun _ => h.hufBuildBody_matches

theorem State.Shows.hufCodegen_matches : Matches (run .hufCodegen s) (v.run .hufCodegen) :=
  .stage (by rw [h.valid]) fun hreq => h.hufCodegenBody_matches (((Valid.missing_isNone_iff _ _).1 hreq).2.1 rfl)

theorem State.Shows.pack_matches : Matches (run .pack s) (v.run .pack) :=
  .stage (by rw [h.valid]) fun hreq => h.packBody_matches (((Valid.missing_isNone_iff _ _).1 hreq).2.2.1 rfl)

theorem State.Shows.unpack_matches : Matches (run .unpack s) (v.run .unpack) :=
  .stage (by rw [h.valid]) fun hreq => h.unpackBody_matches (((Valid.missing_isNone_iff _ _).1 hreq).2.1 rfl)

theorem State.Shows.serialize_matches : Matches (run .serialize s) (v.run .serialize) :=
  .stage (by rw [h.valid]) fun hreq => h.serializeBody_matches (((Valid.missing_isNone_iff _ _).1 hreq).2.1 rfl)

end Shows

/-! ### The commands -/

/-- A stage and the stages after it match as they do one by one. -/
theorem Matches.runStages_cons {f : State → Except CmdError State} {fs : List (State → Except CmdError State)}
    {r : Except CmdError View} {g : View → Except CmdError View} (hf : Matches (f s) r)
    (hfs : ∀ {t w}, t.Shows w → Matches (runStages fs t) (g w)) : Matches (runStages (f :: fs) s) (r.bind g) := by
  generalize hfs' : f s = x at hf
  cases hf with
  | ok ht => rw [runStages_cons_ok fs hfs']; exact hfs ht
  | error e => rw [runStages_cons_error fs hfs']; exact .error e

/-- The last stage. -/
theorem Matches.runStages_singleton {f : State → Except CmdError State} {r : Except CmdError View}
    (hf : Matches (f s) r) : Matches (runStages [f] s) r := by
  generalize hfs' : f s = x at hf
  cases hf with
  | ok ht => rw [runStages_cons_ok [] hfs']; exact .ok ht
  | error e => rw [runStages_cons_error [] hfs']; exact .error e

theorem State.Given.compressStages_matches (h : s.Given v) : Matches
    (runStages [stageLzwEncode, stageHufBuild, stageHufCodegen, stagePack, stageSerialize] s) v.compressStages :=
  .runStages_cons h.lzwEncode_matches fun h₁ => .runStages_cons h₁.hufBuild_matches fun h₂ =>
    .runStages_cons h₂.hufCodegen_matches fun h₃ => .runStages_cons h₃.pack_matches fun h₄ =>
      .runStages_singleton h₄.serialize_matches

theorem State.Given.decompressStages_matches (h : s.Given v) :
    Matches (runStages [stageParse, stageUnpack, stageLzwDecode] s) v.decompressStages :=
  .runStages_cons h.parse_matches fun h₁ => .runStages_cons h₁.unpack_matches fun h₂ =>
    .runStages_singleton h₂.lzwDecode_matches

/-- COMPRESS reads nothing but the input. -/
theorem State.Given.compress_matches (h : s.Given v) : Matches (run .compress s) (v.run .compress) := by
  simp only [run, runCompress, View.run, ← inBytes_eq_nil_iff, h.input, h.params, ← h.input_length]
  split
  · exact .error _
  split
  · exact .error _
  · exact h.compressStages_matches

/-- DECOMPRESS reads nothing but the input. -/
theorem State.Given.decompress_matches (h : s.Given v) : Matches (run .decompress s) (v.run .decompress) := by
  simp only [run, runDecompress, View.run, h.params, ← h.input_length]
  split
  · exact .error _
  · exact h.decompressStages_matches

theorem State.Shows.run_matches (h : s.Shows v) (i : Instr) : Matches (run i s) (v.run i) := by
  cases i with
  | compress => exact h.given.compress_matches
  | decompress => exact h.given.decompress_matches
  | lzwEncode => exact h.given.lzwEncode_matches
  | lzwDecode => exact h.lzwDecode_matches
  | hufBuild => exact h.hufBuild_matches
  | hufCodegen => exact h.hufCodegen_matches
  | pack => exact h.pack_matches
  | unpack => exact h.unpack_matches
  | serialize => exact h.serialize_matches
  | parse => exact h.given.parse_matches

end Sys2Proof.Machine
end

section
/-! SUPPORT. The composites on views: their stages find every bit they require, so each comes to what its stages'
functions come to, one after the other (44_pipeline.md R811, R830, R840). -/

namespace Sys2Proof.Machine

variable {v w : View}

/-- What COMPRESS leaves, of the tokens `toks`, the packed bits `p` and the artifact `a`. -/
def View.compressed (v : View) (toks : List Nat) (p : List Byte × Nat) (a : List Byte) : View :=
  ⟨v.params, v.input, some toks, some (builtTree v.params toks), some (codeTable (builtTree v.params toks)), some p,
    some a⟩

/-- What DECOMPRESS leaves, of the parsed tree `tr`, the packed bits `p`, the tokens `toks` and the bytes `b`. -/
def View.decompressed (v : View) (tr : HufTree) (p : List Byte × Nat) (toks : List Nat) (b : List Byte) : View :=
  ⟨v.params, v.input, some toks, some tr, none, some p, some b⟩

/-- The artifact of the tokens' tree, with the packed bits `p`. -/
def builtArtifact (params : Params) (toks : List Nat) (p : List Byte × Nat) : Except Cause (List Byte) :=
  serializeArtifact params.outCap (builtTree params toks) (builtTree params toks).nodes p.1 p.2

theorem View.compressStages_eq (hin : v.input.length ≤ v.params.inCap) : v.compressStages =
    ((lzwEncode v.params.ceiling v.params.tokCap v.input).mapError fun c => ⟨c, .lzwEncode⟩).bind fun toks =>
      if toks = [] then .error ⟨.emptyInput, .hufBuild⟩
      else ((packTokens (codeTable (builtTree v.params toks)) v.params.pkCap toks).mapError fun c => ⟨c, .pack⟩).bind
        fun p => ((builtArtifact v.params toks p).mapError fun c => ⟨c, .serialize⟩).map fun a =>
          v.compressed toks p a := by
  have hlen : ¬v.params.inCap < v.input.length := Nat.not_lt.2 hin
  rw [View.compressStages, View.stage_of_valid rfl, View.lzwEncodeBody, if_neg hlen, except_mapError_map,
    except_map_bind]
  refine congrArg _ (funext fun toks => ?_)
  by_cases hnil : toks = []
  · subst hnil; rfl
  have hbuild : View.stage .hufBuild View.hufBuildBody
      { v with tok := some toks, tree := none, codes := none, pk := none } =
      .ok { v with tok := some toks, tree := some (builtTree v.params toks), codes := none, pk := none } := by
    rw [View.stage_of_valid rfl]
    exact congrArg _ (if_neg hnil)
  rw [if_neg hnil, hbuild]
  change (View.stage .pack View.packBody _).bind _ = _
  rw [View.stage_of_valid rfl, View.packBody, except_mapError_map, except_map_bind]
  refine congrArg _ (funext fun p => ?_)
  rw [View.stage_of_valid rfl, View.serializeBody, except_mapError_map]
  rfl

theorem View.decompressStages_eq (hin : v.input.length ≤ v.params.inCap) : v.decompressStages =
    ((parseArtifact v.params (fun _ => 0#32) v.input).mapError fun c => ⟨c, .parse⟩).bind fun r =>
      let tr := treeOf v.params r.arena r.root
      ((unpackTokens v.params.tokCap tr r.pk r.pad).mapError fun c => ⟨c, .unpack⟩).bind fun toks =>
        ((lzwDecode v.params.ceiling v.params.outCap toks).mapError fun c => ⟨c, .lzwDecode⟩).map fun b =>
          v.decompressed tr (r.pk, r.pad) toks b := by
  have hlen : ¬v.params.inCap < v.input.length := Nat.not_lt.2 hin
  rw [View.decompressStages, View.stage_of_valid rfl, View.parseBody, if_neg hlen, except_mapError_map,
    except_map_bind]
  refine congrArg _ (funext fun r => ?_)
  rw [View.stage_of_valid rfl, View.unpackBody, except_mapError_map, except_map_bind]
  refine congrArg _ (funext fun toks => ?_)
  rw [View.stage_of_valid rfl, View.lzwDecodeBody, except_mapError_map]
  rfl

end Sys2Proof.Machine
end

section
/-! SUPPORT. The errors of the composites: COMPRESS's tree codes every token, and no stage of either finds a bit missing
or its input beyond IN_CAP (44_pipeline.md R830, R840). -/

namespace Sys2Proof.Machine

/-! ### PARSE does not look at IN_CAP -/

section Parse

variable {c : Cause}

theorem takeLe_error_ne_inp {n : Nat} {l : List Byte} (h : takeLe n l = .error c) : c ≠ .capacity .inp := by
  rw [(takeLe_error h).1]
  exact nofun

theorem parseNode_error_ne_inp {ceiling : Nat} {freq : Nat → BitVec 32} {p : ParseState}
    (h : parseNode ceiling freq p = .error c) : c ≠ .capacity .inp := by
  unfold parseNode at h
  simp only at h
  split at h
  next => cases h; exact nofun
  next =>
    split at h
    next htag => cases h; exact takeLe_error_ne_inp htag
    next =>
      split_ifs at h
      · split at h
        next hsym => cases h; exact takeLe_error_ne_inp hsym
        next => split_ifs at h <;> cases h <;> exact nofun
      · cases h; exact nofun

theorem parseNodes_error_ne_inp {ceiling n : Nat} {freq : Nat → BitVec 32} {p : ParseState}
    (h : parseNodes ceiling freq n p = .error c) : c ≠ .capacity .inp := by
  induction n generalizing p with
  | zero => cases h
  | succ n ih =>
    unfold parseNodes at h
    split at h
    next hnode => cases h; exact parseNode_error_ne_inp hnode
    next => exact ih h

theorem parsePayload_error_ne_inp {pkCap pad : Nat} {l : List Byte} (h : parsePayload pkCap pad l = .error c) :
    c ≠ .capacity .inp := by
  unfold parsePayload at h
  split at h
  next hlen => cases h; exact takeLe_error_ne_inp hlen
  next => split_ifs at h <;> cases h <;> exact nofun

theorem parseArtifact_error_ne_inp {params : Params} {freq : Nat → BitVec 32} {a : List Byte}
    (h : parseArtifact params freq a = .error c) : c ≠ .capacity .inp := by
  obtain ⟨d, hd⟩ | ⟨pad, count, rest, hhead⟩ := header_cases params a
  · rw [hd] at h; cases h; exact nofun
  cases hnodes : parseNodes params.ceiling freq count ⟨rest, 1, [], [], []⟩ with
  | error e => rw [parseArtifact_of_nodes_error hhead hnodes] at h; cases h; exact parseNodes_error_ne_inp hnodes
  | ok p =>
    rw [parseArtifact_of_nodes_ok hhead hnodes] at h
    split_ifs at h
    · cases h; exact nofun
    · exact parsePayload_error_ne_inp (except_map_eq_error.1 h)

end Parse

/-! ### The tokens' own tree codes them -/

section Built

variable {params : Params} {toks : List Nat} (hwf : params.wf = true) (hne : toks ≠ [])
  (hlt : ∀ x ∈ toks, x < params.ceiling)
include hwf hne hlt

theorem builtTree_treeMade : TreeMade params.ceiling (hufBuild params.ceiling toks).arena
    (hufBuild params.ceiling toks).root (hufBuild params.ceiling toks).count (builtTree params toks) ∧
    ∀ x, x ∈ (builtTree params toks).symbols ↔ x ∈ toks := by
  obtain ⟨-, hceil, -⟩ := Params.bounds hwf
  obtain ⟨tr, hmade, hall⟩ := hufBuild_treeMade hceil hne hlt
  rw [builtTree, hmade.treeOf_eq]
  exact ⟨hmade, hmade.symbols_iff hall⟩

theorem exists_codeBits_builtTree : ∃ B, codeBits (codeTable (builtTree params toks)) toks = .ok B := by
  obtain ⟨hmade, hsym⟩ := builtTree_treeMade hwf hne hlt
  exact ⟨_, codeBits_of_coded fun x hx => ((codeTableIsAPrefixCode _ hmade.fit.1).1 x).2 ((hsym x).2 hx)⟩

/-- So PACK can fail on them only for room. -/
theorem packTokens_builtTree_error {c : Cause}
    (h : packTokens (codeTable (builtTree params toks)) params.pkCap toks = .error c) : c = .capacity .pk := by
  obtain ⟨B, hB⟩ := exists_codeBits_builtTree hwf hne hlt
  obtain hfull | hfit := Nat.lt_or_ge (8 * params.pkCap) B.length
  · rw [packTokens_of_overflow hB hfull] at h; cases h; rfl
  · rw [packTokens_of_fits hB hfit] at h; cases h

end Built

/-- A non-empty input has tokens, all below CEILING (40_lzw.md R410, R414). -/
theorem lzwEncode_tokens {ceiling cap : Nat} (hc : 256 ≤ ceiling) {b : List Byte} {toks : List Nat} (hb : b ≠ [])
    (h : lzwEncode ceiling cap b = .ok toks) : toks ≠ [] ∧ toks.length ≤ b.length ∧ ∀ x ∈ toks, x < ceiling := by
  obtain ⟨hlt, hcount⟩ := (lzwTokensBoundedAndCounted ceiling cap b hc).1 toks h
  obtain ⟨hpos, hle⟩ := hcount (List.length_pos_iff.2 hb)
  exact ⟨List.length_pos_iff.1 hpos, hle, hlt⟩

/-! ### The composites -/

/-- The error list of 44_pipeline.md R830. -/
def compressErrors : List CmdError :=
  [⟨.emptyInput, .compress⟩, ⟨.capacity .inp, .compress⟩, ⟨.capacity .tok, .lzwEncode⟩, ⟨.capacity .pk, .pack⟩,
    ⟨.capacity .out, .serialize⟩]

/-- The error list of 44_pipeline.md R840. -/
def decompressErrors : List CmdError :=
  ⟨.capacity .inp, .decompress⟩ ::
    (((raised .parse).filter (· ≠ .capacity .inp)).map (CmdError.mk · .parse) ++
      (raised .unpack).map (CmdError.mk · .unpack) ++ (raised .lzwDecode).map (CmdError.mk · .lzwDecode))

variable {v : View} {e : CmdError}

theorem View.compressStages_error (hwf : v.params.wf = true) (hne : v.input ≠ [])
    (hin : v.input.length ≤ v.params.inCap) (h : v.compressStages = .error e) : e ∈ compressErrors := by
  obtain ⟨hceil, -⟩ := Params.bounds hwf
  simp only [View.compressStages_eq hin, except_bind_eq_error, except_mapError_eq_error, except_mapError_eq_ok] at h
  obtain ⟨c, hc, rfl⟩ | ⟨toks, htoks, h⟩ := h
  · rw [lzwEncode_error hc]; decide
  obtain ⟨htoksNe, -, hlt⟩ := lzwEncode_tokens hceil hne htoks
  simp only [if_neg htoksNe, except_bind_eq_error, except_mapError_eq_error, except_map_eq_error] at h
  obtain ⟨c, hc, rfl⟩ | ⟨p, -, c, hc, rfl⟩ := h
  · rw [packTokens_builtTree_error hwf htoksNe hlt hc]; decide
  · rw [serializeArtifact_error hc]; decide

theorem View.decompressStages_error (hin : v.input.length ≤ v.params.inCap) (h : v.decompressStages = .error e) :
    e ∈ decompressErrors := by
  simp only [View.decompressStages_eq hin, except_bind_eq_error, except_mapError_eq_error, except_map_eq_error] at h
  refine List.mem_cons_of_mem _ ?_
  obtain ⟨c, hc, rfl⟩ | ⟨r, -, ⟨c, hc, rfl⟩ | ⟨toks, -, c, hc, rfl⟩⟩ := h
  · refine List.mem_append_left _ (List.mem_append_left _ (List.mem_map_of_mem (List.mem_filter.2 ⟨?_, ?_⟩)))
    · exact parseArtifact_error hc
    · exact decide_eq_true (parseArtifact_error_ne_inp hc)
  · exact List.mem_append_left _ (List.mem_append_right _ (List.mem_map_of_mem (unpackTokens_error hc)))
  · exact List.mem_append_right _ (List.mem_map_of_mem (lzwDecode_error hc))

theorem View.compress_error (hwf : v.params.wf = true) (h : v.run .compress = .error e) : e ∈ compressErrors := by
  simp only [View.run] at h
  split_ifs at h with hnil hlong
  · cases h; decide
  · cases h; decide
  · exact View.compressStages_error hwf hnil (Nat.le_of_not_lt hlong) h

theorem View.decompress_error (h : v.run .decompress = .error e) : e ∈ decompressErrors := by
  simp only [View.run] at h
  split_ifs at h with hlong
  · cases h; decide
  · exact View.decompressStages_error (Nat.le_of_not_lt hlong) h

/-! ### What the host sees -/

variable {s t : State} {i : Instr}

/-- A state gives a view of its parameters and its input. -/
theorem given_blank (s : State) (hwf : s.params.wf = true) : s.Given (.blank s.params s.inBytes) :=
  ⟨rfl, hwf, rfl, nofun⟩

/-- A command that completed with an error came to that error on the view too. -/
theorem Matches.error_of_err {r : Except CmdError View} (hm : Matches (run i s) r) (h : exec i s = .next t)
    (herr : t.err = true) : ∃ e, r = .error e ∧ t.error = e.reg := by
  obtain rfl := (exec_next_iff i s t).1 h
  generalize run i s = x at hm herr ⊢
  cases hm with
  | ok hu => cases herr
  | error e => exact ⟨e, rfl, rfl⟩

/-- Settles O10: the errors of the views' composites are those listed. -/
theorem compositesRaiseOnlyTheirErrors : Obligations.CompositesRaiseOnlyTheirErrors := by
  intro s t hwf
  have hgiven := given_blank s hwf
  refine ⟨fun h herr => ?compress, fun h herr => ?decompress⟩
  case compress =>
    obtain ⟨e, he, hreg⟩ := hgiven.compress_matches.error_of_err h herr
    have hmem := View.compress_error hwf he
    rw [hreg]
    clear he hreg
    revert e
    decide
  case decompress =>
    obtain ⟨e, he, hreg⟩ := hgiven.decompress_matches.error_of_err h herr
    have hmem := View.decompress_error he
    rw [hreg]
    clear he hreg
    revert e
    decide

end Sys2Proof.Machine
end

section
/-! SUPPORT. The results of a command as a function of the view: two states that show one view come to the same results,
and a composite comes to what its stages come to, issued one after the other (44_pipeline.md R802, R810, R811,
R851). -/

namespace Sys2Proof.Machine

variable {s t : State} {v w : View}

/-! ### Completions that match -/

/-- States that show one view, output included, and stand at the same point of a command's life have the same
results. -/
theorem results_eq_of_shows (hs : s.Shows v) (ht : t.Shows v) (hout : v.out.isSome = true) (hlife : s.life = t.life) :
    s.results = t.results := by
  simp only [State.life, Prod.mk.injEq] at hlife
  obtain ⟨-, hdone, herr, herror, hprogress⟩ := hlife
  obtain ⟨b, hb⟩ := Option.isSome_iff_exists.1 hout
  have hvalid : s.valid = t.valid := hs.valid.trans ht.valid.symm
  have hbytes : s.outBytes = t.outBytes := (hs.out b hb s.draws).trans (ht.out b hb t.draws).symm
  have htokens : s.tokens = t.tokens := hs.tokens_eq.trans ht.tokens_eq.symm
  have hpk : s.pkBytes = t.pkBytes := hs.pkBytes_eq.trans ht.pkBytes_eq.symm
  have houtLen : s.outLen = t.outLen := BitVec.eq_of_toNat_eq (by rw [← outBytes_length, hbytes, outBytes_length])
  have htokLen : s.tokLen = t.tokLen := BitVec.eq_of_toNat_eq (by rw [← tokens_length, htokens, tokens_length])
  have hpkLen : s.pkLen = t.pkLen := BitVec.eq_of_toNat_eq (by rw [← pkBytes_length, hpk, pkBytes_length])
  have hpad : s.padLen = t.padLen := BitVec.eq_of_toNat_eq (hs.padLen.trans ht.padLen.symm)
  have hcount : s.nodeCount = t.nodeCount := BitVec.eq_of_toNat_eq (hs.nodeCount.trans ht.nodeCount.symm)
  have htree : (if t.valid.tree then s.tree? else none) = if t.valid.tree then t.tree? else none := by
    split_ifs with hset
    · rw [ht.valid] at hset
      obtain ⟨tr, htr⟩ := Option.isSome_iff_exists.1 hset
      exact (hs.tree tr htr).1.trans (ht.tree tr htr).1.symm
    · rfl
  simp only [State.results, hdone, herr, herror, hprogress, hvalid, hbytes, htokens, hpk, houtLen, htokLen, hpkLen,
    hpad, hcount, htree]

theorem results_errorCompletion (s t : State) (e : CmdError) :
    (s.errorCompletion e).results = (t.errorCompletion e).results := rfl

/-- Two completions that match one outcome on views, which writes or keeps an output, have the same results. -/
theorem Matches.results_eq {x y : Except CmdError State} {r : Except CmdError View} (hx : Matches x r)
    (hy : Matches y r) (hout : ∀ w, r = .ok w → w.out.isSome = true) :
    (s.complete x).results = (t.complete y).results := by
  cases hx with
  | ok hu =>
    cases hy with
    | ok hu' => exact results_eq_of_shows hu.okCompletion hu'.okCompletion (hout _ rfl) rfl
  | error e => cases hy; exact results_errorCompletion s t e

/-! ### The output of a command -/

theorem View.stage_ok {op : Instr} {body : View → Except Cause View} (h : View.stage op body v = .ok w) :
    body v = .ok w := by
  cases hreq : ((requires op).missing v.valid).isNone with
  | false => rw [View.stage_of_missing hreq] at h; cases h
  | true => rwa [View.stage_of_valid hreq, except_mapError_eq_ok] at h

theorem View.serialize_out (h : v.run .serialize = .ok w) : w.out.isSome = true := by
  obtain ⟨a, -, rfl⟩ := except_map_eq_ok.1 (View.stage_ok (body := View.serializeBody) h)
  rfl

theorem View.lzwDecode_out (h : v.run .lzwDecode = .ok w) : w.out.isSome = true := by
  obtain ⟨b, -, rfl⟩ := except_map_eq_ok.1 (View.stage_ok (body := View.lzwDecodeBody) h)
  rfl

/-- COMPRESS ends with SERIALIZE. -/
theorem View.compress_out (h : v.run .compress = .ok w) : w.out.isSome = true := by
  simp only [View.run] at h
  split_ifs at h
  obtain ⟨_, -, h⟩ := except_bind_eq_ok.1 h
  obtain ⟨_, -, h⟩ := except_bind_eq_ok.1 h
  obtain ⟨_, -, h⟩ := except_bind_eq_ok.1 h
  obtain ⟨_, -, h⟩ := except_bind_eq_ok.1 h
  exact View.serialize_out h

/-- DECOMPRESS ends with LZW_DECODE. -/
theorem View.decompress_out (h : v.run .decompress = .ok w) : w.out.isSome = true := by
  simp only [View.run] at h
  split_ifs at h
  obtain ⟨_, -, h⟩ := except_bind_eq_ok.1 h
  obtain ⟨_, -, h⟩ := except_bind_eq_ok.1 h
  exact View.lzwDecode_out h

/-- Settles O46: both states give the view of their parameters and their input. -/
theorem compositesDependOnTheInputOnly : Obligations.CompositesDependOnTheInputOnly := by
  intro s u t v hwf hparams _ hbytes
  have hs := given_blank s hwf
  have hu := given_blank u (hparams ▸ hwf)
  rw [hparams, hbytes] at hu
  simp only [exec_next_iff]
  refine ⟨?compress, ?decompress⟩ <;> rintro rfl rfl
  case compress => exact hs.compress_matches.results_eq hu.compress_matches fun _ => View.compress_out
  case decompress => exact hs.decompress_matches.results_eq hu.decompress_matches fun _ => View.decompress_out

/-! ### Stage by stage -/

/-- `c` is the completion of a command whose outcome on views is `r`. -/
def Completes (c : State) (r : Except CmdError View) : Prop := ∃ s x, c = State.complete s x ∧ Matches x r

/-- A composite that begins with the stage `op` comes to the results of the command `op` if that fails, and goes on from
the view that it leaves if it does not. -/
theorem Completes.stage {c : State} {op : Instr} {g : View → Except CmdError View}
    (hc : Completes c ((v.run op).bind g)) (hm : Matches (run op s) (v.run op)) (h : exec op s = .next t) :
    (t.err = true → c.results = t.results) ∧
    (t.err = false → ∃ w, t.Shows w ∧ Completes c (g w)) := by
  obtain rfl := (exec_next_iff op s t).1 h
  obtain ⟨s₀, x, rfl, hx⟩ := hc
  generalize run op s = y, v.run op = r at hm hx
  cases hm with
  | ok hu => exact ⟨nofun, fun _ => ⟨_, hu.okCompletion, s₀, x, rfl, hx⟩⟩
  | error e => cases hx; exact ⟨fun _ => results_errorCompletion _ _ e, nofun⟩

/-- A composite that ends with the stage `op`, which writes the output, comes to the results of the command `op`. -/
theorem Completes.last_stage {c : State} {op : Instr} (hc : Completes c (v.run op)) (hm : Matches (run op s) (v.run op))
    (hout : ∀ w, v.run op = .ok w → w.out.isSome = true) (h : exec op s = .next t) : c.results = t.results := by
  obtain rfl := (exec_next_iff op s t).1 h
  obtain ⟨s₀, x, rfl, hx⟩ := hc
  exact hx.results_eq hm hout

theorem View.run_compress_of_fits (hne : v.input ≠ []) (hin : v.input.length ≤ v.params.inCap) :
    v.run .compress = v.compressStages := by simp only [View.run, if_neg hne, if_neg (Nat.not_lt.2 hin)]

theorem View.run_decompress_of_fits (hin : v.input.length ≤ v.params.inCap) :
    v.run .decompress = v.decompressStages := by simp only [View.run, if_neg (Nat.not_lt.2 hin)]

/-- Settles O43: each stage command leaves a state that shows the view which the composite's next stage finds. -/
theorem compositesEqualTheirStages : Obligations.CompositesEqualTheirStages := by
  intro s s₁ s₂ s₃ s₄ s₅ c d hwf hin hc hd
  have hgiven := given_blank s hwf
  have hlen : s.inBytes.length ≤ s.params.inCap := (inBytes_length s).trans_le hin
  refine ⟨fun hne h₁ => ?compress, fun h₁ => ?decompress⟩
  case compress =>
    have hrun := View.run_compress_of_fits (v := .blank s.params s.inBytes) (mt (inBytes_eq_nil_iff s).1 hne) hlen
    have hstages : Completes c (View.blank s.params s.inBytes).compressStages :=
      ⟨s, _, (exec_next_iff _ _ _).1 hc, hrun ▸ hgiven.compress_matches⟩
    obtain ⟨hfail₁, hok₁⟩ := hstages.stage hgiven.lzwEncode_matches h₁
    refine ⟨hfail₁, fun herr₁ h₂ => ?_⟩
    obtain ⟨v₁, hshows₁, hrest₁⟩ := hok₁ herr₁
    obtain ⟨hfail₂, hok₂⟩ := hrest₁.stage hshows₁.hufBuild_matches h₂
    refine ⟨hfail₂, fun herr₂ h₃ => ?_⟩
    obtain ⟨v₂, hshows₂, hrest₂⟩ := hok₂ herr₂
    obtain ⟨hfail₃, hok₃⟩ := hrest₂.stage hshows₂.hufCodegen_matches h₃
    refine ⟨hfail₃, fun herr₃ h₄ => ?_⟩
    obtain ⟨v₃, hshows₃, hrest₃⟩ := hok₃ herr₃
    obtain ⟨hfail₄, hok₄⟩ := hrest₃.stage hshows₃.pack_matches h₄
    refine ⟨hfail₄, fun herr₄ h₅ => ?_⟩
    obtain ⟨v₄, hshows₄, hrest₄⟩ := hok₄ herr₄
    exact hrest₄.last_stage hshows₄.serialize_matches (fun _ => View.serialize_out) h₅
  case decompress =>
    have hrun := View.run_decompress_of_fits (v := .blank s.params s.inBytes) hlen
    have hstages : Completes d (View.blank s.params s.inBytes).decompressStages :=
      ⟨s, _, (exec_next_iff _ _ _).1 hd, hrun ▸ hgiven.decompress_matches⟩
    obtain ⟨hfail₁, hok₁⟩ := hstages.stage hgiven.parse_matches h₁
    refine ⟨hfail₁, fun herr₁ h₂ => ?_⟩
    obtain ⟨v₁, hshows₁, hrest₁⟩ := hok₁ herr₁
    obtain ⟨hfail₂, hok₂⟩ := hrest₁.stage hshows₁.unpack_matches h₂
    refine ⟨hfail₂, fun herr₂ h₃ => ?_⟩
    obtain ⟨v₂, hshows₂, hrest₂⟩ := hok₂ herr₂
    exact hrest₂.last_stage hshows₂.lzwDecode_matches (fun _ => View.lzwDecode_out) h₃

/-! ### The view that the invariant allows -/

/-- What an invariant state shows. -/
def State.view (s : State) : View where
  params := s.params
  input := s.inBytes
  tok := if s.valid.tok then some s.tokens else none
  tree := if s.valid.tree then s.tree? else none
  codes := if s.valid.codes then some s.codes else none
  pk := if s.valid.pk then some (s.pkBytes, s.padLen.toNat) else none
  out := some s.outBytes

theorem isSome_ite_some {α : Type} (b : Bool) (x : α) : (if b then some x else none).isSome = b := by cases b <;> rfl

/-- Listed bytes do not depend on the free values. -/
theorem map_getD_eq_of_listed {α : Type} {m : Sparse α} {n : Nat}
    (h : ∀ i, (Sparse.read m i).isSome = decide (i < n)) (f g : Nat → α) :
    (List.range n).map (fun i => (Sparse.read m i).getD (f i)) =
      (List.range n).map fun i => (Sparse.read m i).getD (g i) := by
  refine List.map_congr_left fun i hi => ?_
  obtain ⟨b, hb⟩ := Option.isSome_iff_exists.1 ((h i).trans (decide_eq_true (List.mem_range.1 hi)))
  rw [hb, Option.getD_some, Option.getD_some]

/-- Without TOK_V there are no tokens (10_state.md R117). -/
theorem State.DestOk.view_tokens (h : s.DestOk) : s.view.tokens = s.tokens := by
  cases htok : s.valid.tok with
  | false => simp [View.tokens, State.view, htok, (tokens_eq_nil_iff s).2 (h.tokFollows htok)]
  | true => simp [View.tokens, State.view, htok]

/-- Without PK_V there is neither a packed byte nor padding (10_state.md R117). -/
theorem State.DestOk.view_packed (h : s.DestOk) : s.view.packed = (s.pkBytes, s.padLen.toNat) := by
  cases hpk : s.valid.pk with
  | false =>
    obtain ⟨hlen, hpad⟩ := h.pkFollows hpk
    simp [View.packed, State.view, hpk, State.pkBytes, hlen, hpad]
  | true => simp [View.packed, State.view, hpk]

/-- The tree shown is the arena's, with TREE_V set exactly when there is one (10_state.md R130 item 2). -/
theorem State.DataOk.view_tree (h : s.DataOk) :
    s.view.tree.isSome = s.valid.tree ∧ s.nodeCount.toNat = s.view.nodeCount ∧
    ∀ tr ∈ s.view.tree, s.tree? = some tr ∧ HufTreeOk s.params.ceiling tr := by
  cases htree : s.valid.tree with
  | false =>
    have hnone : s.view.tree = none := by simp [State.view, htree]
    exact ⟨by rw [hnone]; rfl, by rw [View.nodeCount, hnone, h.dest.treeFollows htree]; rfl, by rw [hnone]; exact nofun⟩
  | true =>
    obtain ⟨tr, htr, hnodes, hok, -⟩ := h.codec.tree htree
    have hsome : s.view.tree = some tr := by simp [State.view, htree, htr]
    refine ⟨by rw [hsome]; rfl, by rw [View.nodeCount, hsome, ← hnodes]; rfl, ?_⟩
    rw [hsome]
    rintro _ ⟨⟩
    exact ⟨htr, hok⟩

theorem State.Inv.shows (h : s.Inv) : s.Shows s.view := by
  obtain ⟨-, -, hdata⟩ := s.inv_iff.1 h
  have hbuf := hdata.buf
  obtain ⟨hsome, hcount, htree⟩ := hdata.view_tree
  have htokens := hdata.dest.view_tokens
  have hpacked := hdata.dest.view_packed
  refine ⟨rfl, hdata.dest.params, rfl, ?out, ?valid, fun n => ?tokens, ?tokLt, htree, hcount, ?codes, fun n => ?pkBytes,
    congrArg Prod.snd hpacked.symm⟩
  case out =>
    rintro _ ⟨⟩ n
    exact map_getD_eq_of_listed hbuf.outListed _ _
  case valid =>
    rw [View.valid, hsome]
    simp only [State.view, isSome_ite_some]
  case tokens => rw [htokens]; exact tokens_eq_of_data_eq hbuf rfl
  case tokLt =>
    rw [htokens]
    cases htok : s.valid.tok with
    | false => rw [(tokens_eq_nil_iff s).2 (hdata.dest.tokFollows htok)]; exact nofun
    | true => exact hdata.codec.tokens htok
  case codes =>
    intro c hc
    cases hcodes : s.valid.codes <;> simp only [State.view, hcodes] at hc <;> cases hc
    rfl
  case pkBytes => rw [hpacked]; exact map_getD_eq_of_listed hbuf.pkListed _ _

/-- A command writes an output or keeps the one there is. -/
theorem View.run_out {i : Instr} (hv : v.out.isSome = true) (h : v.run i = .ok w) : w.out.isSome = true := by
  cases i with
  | compress => exact View.compress_out h
  | decompress => exact View.decompress_out h
  | lzwDecode => exact View.lzwDecode_out h
  | serialize => exact View.serialize_out h
  | hufCodegen => cases View.stage_ok (body := View.hufCodegenBody) h; exact hv
  | lzwEncode =>
    have hbody := View.stage_ok (body := View.lzwEncodeBody) h
    rw [View.lzwEncodeBody] at hbody
    split_ifs at hbody
    obtain ⟨_, -, rfl⟩ := except_map_eq_ok.1 hbody
    exact hv
  | hufBuild =>
    have hbody := View.stage_ok (body := View.hufBuildBody) h
    rw [View.hufBuildBody] at hbody
    split_ifs at hbody
    cases hbody
    exact hv
  | pack =>
    obtain ⟨_, -, rfl⟩ := except_map_eq_ok.1 (View.stage_ok (body := View.packBody) h)
    exact hv
  | unpack =>
    obtain ⟨_, -, rfl⟩ := except_map_eq_ok.1 (View.stage_ok (body := View.unpackBody) h)
    exact hv
  | parse =>
    have hbody := View.stage_ok (body := View.parseBody) h
    rw [View.parseBody] at hbody
    split_ifs at hbody
    obtain ⟨_, -, rfl⟩ := except_map_eq_ok.1 hbody
    exact hv

/-- Settles O47: what an invariant state shows is of its content alone, and so are the results. -/
theorem resultsDoNotDependOnStatusOrReads : Obligations.ResultsDoNotDependOnStatusOrReads := by
  intro i s t u n r a q d e x p hinv ht hu
  obtain rfl := (exec_next_iff i _ _).1 ht
  obtain rfl := (exec_next_iff i _ _).1 hu
  have hs := hinv.shows
  refine (hs.run_matches i).results_eq (State.Shows.run_matches ?_ i) fun _ => View.run_out rfl
  exact hs.of_content_eq rfl

end Sys2Proof.Machine
end

section
/-! SUPPORT. What the composites make: COMPRESS of every input that fits, DECOMPRESS of every artifact that decodes, and
the one of what the other made (44_pipeline.md R830 to R832, R840, R841, R850). -/

namespace Sys2Proof.Machine

variable {s t : State} {v w : View} {i : Instr}

/-! ### Successes -/

/-- COMPRESS's stages succeed exactly when the functions of its stages do. -/
theorem View.compressStages_eq_ok_iff (hin : v.input.length ≤ v.params.inCap) : v.compressStages = .ok w ↔
    ∃ toks p a, lzwEncode v.params.ceiling v.params.tokCap v.input = .ok toks ∧ toks ≠ [] ∧
      packTokens (codeTable (builtTree v.params toks)) v.params.pkCap toks = .ok p ∧
      builtArtifact v.params toks p = .ok a ∧ w = v.compressed toks p a := by
  simp only [View.compressStages_eq hin, except_bind_eq_ok, except_mapError_eq_ok]
  constructor
  · rintro ⟨toks, htoks, h⟩
    split_ifs at h with hnil
    simp only [except_bind_eq_ok, except_mapError_eq_ok, except_map_eq_ok] at h
    obtain ⟨p, hp, a, ha, rfl⟩ := h
    exact ⟨toks, p, a, htoks, hnil, hp, ha, rfl⟩
  · rintro ⟨toks, p, a, htoks, hnil, hp, ha, rfl⟩
    refine ⟨toks, htoks, ?_⟩
    simp only [if_neg hnil, Except.mapError, Except.bind, hp, ha]
    rfl

/-- DECOMPRESS's stages succeed when the functions of its stages do. -/
theorem View.decompressStages_of_ok (hin : v.input.length ≤ v.params.inCap) {r : Parsed} {tr : HufTree}
    {toks : List Nat} {b : List Byte} (hparse : parseArtifact v.params (fun _ => 0#32) v.input = .ok r)
    (htr : treeOf v.params r.arena r.root = tr) (hunpack : unpackTokens v.params.tokCap tr r.pk r.pad = .ok toks)
    (hdec : lzwDecode v.params.ceiling v.params.outCap toks = .ok b) :
    v.decompressStages = .ok (v.decompressed tr (r.pk, r.pad) toks b) := by
  subst htr
  rw [View.decompressStages_eq hin, hparse]
  simp only [Except.mapError, Except.bind, hunpack, hdec]
  rfl

/-- COMPRESS succeeds only on a non-empty input that IN_MEM holds. -/
theorem View.compress_ok (h : v.run .compress = .ok w) : v.input ≠ [] ∧
    ∃ toks p a, lzwEncode v.params.ceiling v.params.tokCap v.input = .ok toks ∧ toks ≠ [] ∧
      packTokens (codeTable (builtTree v.params toks)) v.params.pkCap toks = .ok p ∧
      builtArtifact v.params toks p = .ok a ∧ w = v.compressed toks p a := by
  simp only [View.run] at h
  split_ifs at h with hnil hlong
  exact ⟨hnil, (View.compressStages_eq_ok_iff (Nat.le_of_not_lt hlong)).1 h⟩

/-- A command that succeeds on the view completes, and then shows what it came to. -/
theorem Matches.exec_of_ok (h : Matches (run i s) (.ok w)) :
    ∃ t, exec i s = .next t ∧ t.Shows w ∧ t.CompletedOk ∧ s.SameHostSide t := by
  generalize hrun : run i s = x at h
  cases h with
  | ok hu =>
    have hexec := exec_of_run_ok hrun
    exact ⟨_, hexec, hu.okCompletion, completedOk_okCompletion _, exec_sameHostSide hexec⟩

/-- A command that completed without error succeeded on the view. -/
theorem Matches.ok_of_no_err {r : Except CmdError View} (hm : Matches (run i s) r) (h : exec i s = .next t)
    (herr : t.err = false) : ∃ w, r = .ok w ∧ t.Shows w := by
  obtain rfl := (exec_next_iff i s t).1 h
  generalize run i s = x at hm herr ⊢
  cases hm with
  | ok hu => exact ⟨_, rfl, hu.okCompletion⟩
  | error e => cases herr

/-! ### What a state that shows a view holds -/

section Shows

variable (h : s.Shows v)
include h

theorem State.Shows.tokLen_eq : s.tokLen.toNat = v.tokens.length := by rw [← tokens_length, h.tokens_eq]

theorem State.Shows.pkLen_eq : s.pkLen.toNat = v.packed.1.length := by rw [← pkBytes_length, h.pkBytes_eq]

theorem State.Shows.outBytes_eq {b : List Byte} (hb : v.out = some b) : s.outBytes = b := h.out b hb s.draws

end Shows

/-! ### COMPRESS -/

/-- COMPRESS of an input whose tokens, packed bits and artifact fit completes in a state that shows them
(44_pipeline.md R830, R832). -/
theorem exec_compress_of_fits {toks : List Nat} {tr : HufTree} {pk : List Byte} {pad : Nat}
    (hwf : s.params.wf = true) (hne : s.inLen ≠ 0#32) (hin : s.inLen.toNat ≤ s.params.inCap)
    (htoks : lzwEncode s.params.ceiling s.params.tokCap s.inBytes = .ok toks)
    (htr : builtTree s.params toks = tr) (hpack : packTokens (codeTable tr) s.params.pkCap toks = .ok (pk, pad))
    (hfit : (artifact tr tr.nodes pk pad).length ≤ s.params.outCap) :
    ∃ t, exec .compress s = .next t ∧
      t.Shows ((View.blank s.params s.inBytes).compressed toks (pk, pad) (artifact tr tr.nodes pk pad)) ∧
      t.CompletedOk ∧ s.SameHostSide t := by
  subst htr
  obtain ⟨hceil, -⟩ := Params.bounds hwf
  have hlen : s.inBytes.length ≤ s.params.inCap := (inBytes_length s).trans_le hin
  have hbytes : s.inBytes ≠ [] := mt (inBytes_eq_nil_iff s).1 hne
  have hrun := (View.run_compress_of_fits (v := .blank s.params s.inBytes) hbytes hlen).trans
    ((View.compressStages_eq_ok_iff hlen).2 ⟨toks, (pk, pad), _, htoks, (lzwEncode_tokens hceil hbytes htoks).1, hpack,
      serializeArtifact_of_fits hfit, rfl⟩)
  exact Matches.exec_of_ok (hrun ▸ (given_blank s hwf).compress_matches)

/-- Codes of 1 to `k` bits give at least one and at most `k` bits a token. -/
theorem codeBits_length_bounds {codes : Sparse Bits} {k : Nat}
    (hlen : ∀ x c, Sparse.read codes x = some c → 1 ≤ c.length ∧ c.length ≤ k) {t : List Nat} {B : Bits}
    (h : codeBits codes t = .ok B) : t.length ≤ B.length ∧ B.length ≤ t.length * k := by
  induction t generalizing B with
  | nil => cases h; exact ⟨le_rfl, Nat.zero_le _⟩
  | cons x xs ih =>
    obtain ⟨c, rest, hc, hrest, rfl⟩ := codeBits_cons_ok h
    obtain ⟨hlow, hhigh⟩ := ih hrest
    obtain ⟨hone, hk⟩ := hlen x c hc
    rw [List.length_append, List.length_cons, Nat.succ_mul]
    omega

/-- A tree's codes have at least one bit and at most as many as it has leaves (41_huffman.md R533). -/
theorem codeTable_length_bounds {tr : HufTree} (hnd : tr.symbols.Nodup) {x : Nat} {c : Bits}
    (h : Sparse.read (codeTable tr) x = some c) : 1 ≤ c.length ∧ c.length ≤ tr.symbols.length := by
  obtain ⟨-, -, hmany, hone⟩ := codeTableIsAPrefixCode tr hnd
  have hpos := symbols_length_pos tr
  obtain htwo | hsingle := Nat.lt_or_ge 1 tr.symbols.length
  · obtain ⟨hlow, hhigh, -⟩ := (hmany htwo).1 x c h
    omega
  · have := hone (by omega) x c h
    omega

/-- The builder's tree of some tokens has no more leaves than there are tokens. -/
theorem builtTree_symbols_length_le {params : Params} {toks : List Nat} (hwf : params.wf = true) (hne : toks ≠ [])
    (hlt : ∀ x ∈ toks, x < params.ceiling) : (builtTree params toks).symbols.length ≤ toks.length := by
  obtain ⟨hmade, hsym⟩ := builtTree_treeMade hwf hne hlt
  exact (List.subperm_of_subset hmade.fit.1 fun x hx => (hsym x).1 hx).length_le

/-- The packed bits of `toks` take at least a byte and at most those of as many codes of as many bits
(42_bitpack.md R607). -/
theorem packTokens_builtTree_of_fits {params : Params} {toks : List Nat} (hwf : params.wf = true) (hne : toks ≠ [])
    (hlt : ∀ x ∈ toks, x < params.ceiling) (hfit : toks.length * toks.length ≤ 8 * params.pkCap) :
    ∃ pk pad, packTokens (codeTable (builtTree params toks)) params.pkCap toks = .ok (pk, pad) ∧ 1 ≤ pk.length ∧
      pk.length ≤ (toks.length * toks.length + 7) / 8 := by
  obtain ⟨B, hB⟩ := exists_codeBits_builtTree hwf hne hlt
  have hnd := (builtTree_treeMade hwf hne hlt).1.fit.1
  obtain ⟨hlow, hhigh⟩ := codeBits_length_bounds (fun x c => codeTable_length_bounds hnd) hB
  have hbits : B.length ≤ toks.length * toks.length :=
    hhigh.trans (Nat.mul_le_mul_left _ (builtTree_symbols_length_le hwf hne hlt))
  have hpos := List.length_pos_iff.2 hne
  refine ⟨_, _, packTokens_of_fits hB (hbits.trans hfit), ?_, ?_⟩ <;> rw [bytesOfBits_padBits_length] <;> omega

/-- Settles O41: the stages' functions succeed, and by sizes alone they do for short enough inputs. -/
theorem compressSucceedsOnEveryInputThatFits : Obligations.CompressSucceedsOnEveryInputThatFits := by
  refine ⟨fun s toks tr pk pad hwf hne hin htoks htr hpack hfit => ?results, fun s hwf hne hin htokCap hpkCap houtCap =>
    ?sizes⟩
  case results =>
    obtain ⟨t, hexec, hshows, hdone, hhost⟩ :=
      exec_compress_of_fits hwf hne hin htoks (treeOf_of_readTree htr) hpack hfit
    have htree : builtTree s.params toks = tr := treeOf_of_readTree htr
    subst htree
    exact ⟨t, hexec, hshows.tokens_eq, hshows.tokLen_eq, (hshows.tree _ rfl).1, hshows.nodeCount, hshows.codes _ rfl,
      hshows.pkBytes_eq, hshows.pkLen_eq, hshows.padLen, hshows.outBytes_eq rfl, (outBytes_length t).symm, hshows.valid,
      hdone, hhost⟩
  case sizes =>
    obtain ⟨hceil, -⟩ := Params.bounds hwf
    have hlen := inBytes_length s
    have hmax := lzwTokens_length_le s.params.ceiling s.inBytes
    have htoks := (lzwEncode_eq_ite s.params.ceiling s.params.tokCap s.inBytes).trans (if_pos (by omega))
    obtain ⟨htoksNe, -, hlt⟩ := lzwEncode_tokens hceil (mt (inBytes_eq_nil_iff s).1 hne) htoks
    have hsquare := Nat.mul_le_mul (hmax.trans hlen.le) (hmax.trans hlen.le)
    obtain ⟨pk, pad, hpack, hpos, hpkLen⟩ := packTokens_builtTree_of_fits hwf htoksNe hlt (hsquare.trans hpkCap)
    have hleaves := builtTree_symbols_length_le hwf htoksNe hlt
    obtain ⟨-, -, hartLen⟩ := artifactLength.1 (builtTree s.params (lzwTokens s.params.ceiling s.inBytes))
      (builtTree s.params (lzwTokens s.params.ceiling s.inBytes)).nodes pad pk
    have hfit := hartLen.trans_le (show _ ≤ s.params.outCap by omega)
    obtain ⟨t, hexec, hshows, hdone, -⟩ := exec_compress_of_fits hwf hne hin htoks rfl hpack hfit
    exact ⟨t, hexec, hdone.err, hshows.valid, hshows.tokLen_eq ▸ List.length_pos_iff.2 htoksNe,
      hshows.pkLen_eq ▸ hpos⟩

/-! ### DECOMPRESS -/

/-- Settles O44: the stages' functions succeed, and the state shows what they made. -/
theorem decompressDecodesEveryArtifact : Obligations.DecompressDecodesEveryArtifact := by
  intro s tr pk pad toks b hwf hin hok h7 hpad hcap hbytes hunpack hdec
  obtain ⟨-, hc, -, -, hpkCap⟩ := Params.bounds hwf
  obtain ⟨arena, hmade, hparse⟩ :=
    parseArtifact_of_artifact hc (freq := fun _ => 0#32) hok h7 hpad hcap (by omega)
  have hlen : s.inBytes.length ≤ s.params.inCap := (inBytes_length s).trans_le hin
  have hrun := (View.run_decompress_of_fits (v := .blank s.params s.inBytes) hlen).trans
    (View.decompressStages_of_ok (r := ⟨arena, 0, tr.nodes, pk, pad⟩) hlen (hbytes ▸ hparse) hmade.treeOf_eq hunpack
      hdec)
  obtain ⟨t, hexec, hshows, hdone, hhost⟩ := Matches.exec_of_ok (hrun ▸ (given_blank s hwf).decompress_matches)
  have hout : t.outBytes = b := hshows.outBytes_eq rfl
  exact ⟨t, hexec, hout, by rw [← outBytes_length, hout], hshows.tokens_eq, hshows.tokLen_eq, (hshows.tree tr rfl).1,
    hshows.nodeCount, hshows.pkBytes_eq, hshows.pkLen_eq, hshows.padLen, hshows.valid, hdone, hhost⟩

/-! ### The round trip -/

/-- Settles O45: what COMPRESS made shows a tree, packed bits and tokens, each of which its inverse stage gives back. -/
theorem pipelineRoundTrip : Obligations.PipelineRoundTrip := by
  intro s t u hwf hout hexec herr hparams hlen hbytes hin
  obtain ⟨hceil, -⟩ := Params.bounds hwf
  obtain ⟨w, hrun, hshows⟩ := (given_blank s hwf).compress_matches.ok_of_no_err hexec herr
  obtain ⟨hne, toks, ⟨pk, pad⟩, a, htoks, htoksNe, hpack, ha, rfl⟩ := View.compress_ok hrun
  obtain ⟨rfl, -⟩ := serializeArtifact_ok ha
  obtain ⟨hlt, htoksLen⟩ := lzwEncode_bounds hceil htoks
  obtain ⟨hmade, hsym⟩ := builtTree_treeMade hwf htoksNe hlt
  obtain ⟨hpkLen, hpad⟩ := packTokens_bounds hpack
  obtain ⟨B, -, -, -, hpadFor⟩ := packTokens_ok hpack
  have hunpack := packUnpackRoundTrip _ _ _ u.params.tokCap _ _ hmade.fit.1 (fun x hx => (hsym x).2 hx)
    (hparams ▸ htoksLen) hpack
  have hdec := (lzwRoundTrip _ _ s.params.outCap _ _ hceil hne ((inBytes_length s).trans_le hout) htoks).1
  rw [← hparams] at hwf hdec hpkLen
  obtain ⟨v, hv, hvBytes, hvLen, -, -, -, -, -, -, -, -, hvDone, -⟩ :=
    decompressDecodesEveryArtifact u _ _ _ _ _ hwf hin (hparams ▸ hmade.fit)
      (hpadFor ▸ Nat.le_of_lt_succ (padFor_lt _)) hpad hpkLen (hbytes.trans (hshows.outBytes_eq rfl)) hunpack hdec
  exact ⟨v, hv, hvDone.err, BitVec.eq_of_toNat_eq (hvLen.trans (inBytes_length s)), hvBytes⟩

end Sys2Proof.Machine
end

section
/-! SUPPORT. Failures: a command that leaves an error code has made the error completion (60_exceptions.md R910), and
the code is SEQUENCE_ERROR when a bit of the *requires* check is missing (R904). -/

namespace Sys2Proof.Machine

variable {s t : State} {i : Instr}

/-! ### The error completion -/

/-- A command that leaves an error code ended in its error completion. -/
theorem failedWith_of_error_code (h : exec i s = .next t) (hne : t.error.code ≠ 0#8) :
    s.FailedWith t t.error.code t.error.detail t.error.op := by
  cases hrun : run i s with
  | ok u =>
    cases (exec_of_run_ok hrun).symm.trans h
    exact absurd rfl hne
  | error e =>
    obtain ⟨t', hexec, hfail⟩ := exec_of_run_error hrun
    cases hexec.symm.trans h
    rwa [hfail.error]

/-- Settles O7: a success leaves no error code, and the error completion drops every result. -/
theorem errorCompletionDropsEveryResult : Obligations.ErrorCompletionDropsEveryResult :=
  fun _ _ _ => failedWith_of_error_code

/-! ### Missing valid bits -/

/-- Some bit of `need` is not set, and `mask` has the missing bits in VALID's layout (60_exceptions.md R904). -/
def Valid.Lacks (v need : Valid) (mask : Byte) : Prop :=
  (need.missing v).isNone = false ∧ 0#4 ++ (need.missing v).bits = mask

/-- A stage command with a required bit missing fails with the mask, before its function runs. -/
theorem exec_of_lacks {body : State → Except Cause State} {mask : Byte} (hstage : run i s = stage i body s)
    (h : s.valid.Lacks (requires i) mask) : ∃ t, exec i s = .next t ∧ s.FailedWith t 0x04#8 mask (opcode i) := by
  obtain ⟨hmissing, rfl⟩ := h
  exact exec_of_run_error (hstage.trans (stage_of_missing hmissing))

/-- Without TOK_V. -/
theorem lacks_tok {v : Valid} (h : v.tok = false) : v.Lacks ⟨true, false, false, false⟩ 0x01#8 := by
  simp [Valid.Lacks, Valid.missing, Valid.isNone, Valid.bits, h]

/-- Without TREE_V. -/
theorem lacks_tree {v : Valid} (h : v.tree = false) : v.Lacks ⟨false, true, false, false⟩ 0x02#8 := by
  simp [Valid.Lacks, Valid.missing, Valid.isNone, Valid.bits, h]

/-- Without TOK_V or CODES_V. -/
theorem lacks_tok_codes {v : Valid} (h : (v.tok && v.codes) = false) : v.Lacks ⟨true, false, true, false⟩
    ((if v.tok then 0x00#8 else 0x01#8) + if v.codes then 0x00#8 else 0x04#8) := by
  cases htok : v.tok <;> cases hcodes : v.codes <;>
    simp [Valid.Lacks, Valid.missing, Valid.isNone, Valid.bits, htok, hcodes] at h ⊢

/-- Without TREE_V or PK_V. -/
theorem lacks_tree_pk {v : Valid} (h : (v.tree && v.pk) = false) : v.Lacks ⟨false, true, false, true⟩
    ((if v.tree then 0x00#8 else 0x02#8) + if v.pk then 0x00#8 else 0x08#8) := by
  cases htree : v.tree <;> cases hpk : v.pk <;>
    simp [Valid.Lacks, Valid.missing, Valid.isNone, Valid.bits, htree, hpk] at h ⊢

/-! ### The commands that never lack a bit -/

/-- An error listed for a stage that requires no valid bit is no SEQUENCE_ERROR. -/
theorem CmdError.Listed.code_ne_sequence {e : CmdError} (h : e.Listed)
    (hnone : requires e.stage = ⟨false, false, false, false⟩) : e.cause.code ≠ 0x04#8 := by
  cases h with
  | @own op c hraised =>
    revert c
    cases op <;> decide
  | missing hmissing =>
    rw [hnone] at hmissing
    cases hmissing

/-- A stage command that requires no valid bit never raises SEQUENCE_ERROR. -/
theorem exec_code_ne_sequence {body : State → Except Cause State} (hstage : run i s = stage i body s)
    (hnone : requires i = ⟨false, false, false, false⟩) :
    ∃ t, exec i s = .next t ∧ t.error.code ≠ 0x04#8 := by
  cases hrun : run i s with
  | ok u => exact ⟨_, exec_of_run_ok hrun, nofun⟩
  | error e =>
    obtain ⟨t, hexec, hfail⟩ := exec_of_run_error hrun
    have hop : e.stage = i := (stage_error (hstage ▸ hrun)).1
    rw [← hop] at hnone
    exact ⟨t, hexec, hfail.error ▸ (run_failsListed i s e hrun).code_ne_sequence hnone⟩

/-- A command whose listed errors hold no SEQUENCE_ERROR never raises it. -/
theorem exec_code_ne_sequence_of_listed {errors : List (Byte × Byte × Byte)}
    (hlisted : ∀ t, exec i s = .next t → t.err = true → (t.error.code, t.error.detail, t.error.op) ∈ errors)
    (hnone : ∀ x ∈ errors, x.1 ≠ 0x04#8) : ∃ t, exec i s = .next t ∧ t.error.code ≠ 0x04#8 := by
  obtain ⟨t, hexec, -, -, herr, -⟩ := everyCommandCompletes i s
  refine ⟨t, hexec, fun hcode => hnone _ (hlisted t hexec ?_) hcode⟩
  rw [herr, hcode]
  rfl

/-- Settles O9: a stage that lacks a bit fails before its function runs, one that requires none cannot lack any, and
the lists of the composites' errors hold no SEQUENCE_ERROR. -/
theorem missingValidBitsRaiseSequenceError : Obligations.MissingValidBitsRaiseSequenceError := fun s =>
  ⟨fun h => exec_of_lacks (i := .lzwDecode) rfl (lacks_tok h),
    fun h => exec_of_lacks (i := .hufBuild) rfl (lacks_tok h),
    fun h => exec_of_lacks (i := .hufCodegen) (body := hufCodegenBody) rfl (lacks_tree h),
    fun h => exec_of_lacks (i := .pack) rfl (lacks_tok_codes h),
    fun h => exec_of_lacks (i := .unpack) rfl (lacks_tree_pk h),
    fun h => exec_of_lacks (i := .serialize) rfl (lacks_tree_pk h),
    exec_code_ne_sequence (i := .lzwEncode) rfl rfl,
    exec_code_ne_sequence (i := .parse) rfl rfl,
    fun hwf => ⟨exec_code_ne_sequence_of_listed (fun t => (compositesRaiseOnlyTheirErrors s t hwf).1) (by simp),
      exec_code_ne_sequence_of_listed (fun t => (compositesRaiseOnlyTheirErrors s t hwf).2) (by simp)⟩⟩

end Sys2Proof.Machine
end

section
/-! SUPPORT. What a buffer holds while its valid bit is 0 reaches no result (60_exceptions.md R911): a command comes to
the same outcome when those buffers are emptied first, as far as the valid bits vouch for the outcome. -/

namespace Sys2Proof.Machine

variable {s u : State}

/-! ### The defined part of a state -/

section Cond

variable {α : Type} {b : Bool} {x y z : α}

theorem cond_cond_same : (bif b then bif b then x else z else z) = bif b then x else z := by cases b <;> rfl

theorem cond_congr_of_true (h : b = true → x = y) : (bif b then x else z) = bif b then y else z := by
  cases b with
  | false => rfl
  | true => exact h rfl

end Cond

/-- The state with every buffer emptied whose valid bit is 0. -/
def State.defined (s : State) : State :=
  { s with
    tokMem := bif s.valid.tok then s.tokMem else []
    arena := bif s.valid.tree then s.arena else []
    root := bif s.valid.tree then s.root else 0
    codes := bif s.valid.codes then s.codes else []
    pkMem := bif s.valid.pk then s.pkMem else [] }

@[simp] theorem State.defined_params (s : State) : s.defined.params = s.params := rfl
@[simp] theorem State.defined_draws (s : State) : s.defined.draws = s.draws := rfl
@[simp] theorem State.defined_inLen (s : State) : s.defined.inLen = s.inLen := rfl
@[simp] theorem State.defined_padLen (s : State) : s.defined.padLen = s.padLen := rfl
@[simp] theorem State.defined_nodeCount (s : State) : s.defined.nodeCount = s.nodeCount := rfl
@[simp] theorem State.defined_valid (s : State) : s.defined.valid = s.valid := rfl
@[simp] theorem State.inBytes_defined (s : State) : s.defined.inBytes = s.inBytes := rfl

theorem State.tokens_defined (h : s.valid.tok = true) : s.defined.tokens = s.tokens := by
  have htok : s.defined.token = s.token := by
    funext i
    simp only [State.token, State.defined, h, cond_true]
  rw [State.tokens, htok]
  rfl

theorem State.tree?_defined (h : s.valid.tree = true) : s.defined.tree? = s.tree? := by
  simp only [State.tree?, State.defined, h, cond_true]

theorem State.tree_defined (h : s.valid.tree = true) : s.defined.tree = s.tree := by
  rw [State.tree, State.tree, State.tree?_defined h, State.defined_draws]

theorem State.codes_defined (h : s.valid.codes = true) : s.defined.codes = s.codes := by
  simp only [State.defined, h, cond_true]

theorem State.pkBytes_defined (h : s.valid.pk = true) : s.defined.pkBytes = s.pkBytes := by
  have hpk : s.defined.pkByte = s.pkByte := by
    funext i
    simp only [State.pkByte, State.defined, h, cond_true]
  rw [State.pkBytes, hpk]
  rfl

theorem State.defined_defined (s : State) : s.defined.defined = s.defined := by simp [State.defined, cond_cond_same]

/-- States that agree but for buffers without their valid bit have one defined part. -/
theorem State.defined_eq_of_agree
    (heq : u = { s with tokMem := u.tokMem, arena := u.arena, root := u.root, codes := u.codes, pkMem := u.pkMem })
    (htok : s.valid.tok = true → u.tokMem = s.tokMem)
    (htree : s.valid.tree = true → u.arena = s.arena ∧ u.root = s.root)
    (hcodes : s.valid.codes = true → u.codes = s.codes) (hpk : s.valid.pk = true → u.pkMem = s.pkMem) :
    u.defined = s.defined := by
  rw [heq]
  simp only [State.defined]
  congr 1
  · exact cond_congr_of_true htok
  · exact cond_congr_of_true hpk
  · exact cond_congr_of_true fun h => (htree h).1
  · exact cond_congr_of_true fun h => (htree h).2
  · exact cond_congr_of_true hcodes

/-- Results show no buffer without its valid bit. -/
theorem State.results_defined (s : State) : s.defined.results = s.results := by
  have htokens : (if s.valid.tok then s.defined.tokens else []) = if s.valid.tok then s.tokens else [] :=
    ite_congr rfl State.tokens_defined fun _ => rfl
  have hpk : (if s.valid.pk then s.defined.pkBytes else []) = if s.valid.pk then s.pkBytes else [] :=
    ite_congr rfl State.pkBytes_defined fun _ => rfl
  have htree : (if s.valid.tree then s.defined.tree? else none) = if s.valid.tree then s.tree? else none :=
    ite_congr rfl State.tree?_defined fun _ => rfl
  rw [State.results, State.results, State.defined_valid, htokens, hpk, htree]
  rfl

/-! ### Writes and the completion -/

theorem State.defined_putTokens (s : State) (toks : List Nat) :
    (s.defined.putTokens toks).defined = (s.putTokens toks).defined := by
  simp [State.defined, State.putTokens, cond_cond_same]

theorem State.defined_putCodes (s : State) (codes : Sparse Bits) :
    (s.defined.putCodes codes).defined = (s.putCodes codes).defined := by
  simp [State.defined, State.putCodes, cond_cond_same]

theorem State.defined_putPacked (s : State) (pk : List Byte) (pad : Nat) :
    (s.defined.putPacked pk pad).defined = (s.putPacked pk pad).defined := by
  simp [State.defined, State.putPacked, cond_cond_same]

theorem State.defined_putOut (s : State) (b : List Byte) : (s.defined.putOut b).defined = (s.putOut b).defined := by
  simp [State.defined, State.putOut, cond_cond_same]

/-- HUF_BUILD's writes. -/
theorem State.defined_dropCodesPacked_putTree (s : State) (arena : List Node) (root count : Nat) :
    (s.defined.dropCodes.dropPacked.putTree arena root count).defined =
      (s.dropCodes.dropPacked.putTree arena root count).defined := by
  simp [State.defined, State.dropCodes, State.dropPacked, State.putTree, cond_cond_same]

/-- Completions whose outcomes have one defined part have the same results. -/
theorem results_complete_of_map_defined_eq {x y : Except CmdError State}
    (h : x.map State.defined = y.map State.defined) : (s.complete x).results = (u.complete y).results := by
  cases x with
  | ok t =>
    obtain ⟨t', rfl, ht⟩ := except_map_eq_ok.1 h.symm
    calc t.okCompletion.results = t.defined.okCompletion.results := t.okCompletion.results_defined.symm
      _ = t'.defined.okCompletion.results := by rw [ht]
      _ = t'.okCompletion.results := t'.okCompletion.results_defined
  | error e =>
    obtain rfl := except_map_eq_error.1 h.symm
    exact results_errorCompletion s u e

/-! ### Stages -/

/-- In `s`, `f` does not look at what lies in a buffer without its valid bit: with those buffers emptied it comes to the
same error, or to a state of the same defined part. -/
def BlindAt {ε : Type} (f : State → Except ε State) (s : State) : Prop :=
  (f s.defined).map State.defined = (f s).map State.defined

/-- A stage whose *requires* check passes is its body, with its errors named after the stage. -/
theorem stage_eq_mapError {op : Instr} {body : State → Except Cause State}
    (h : ((requires op).missing s.valid).isNone = true) :
    stage op body s = (body s).mapError fun c => ⟨c, op⟩ := by
  rw [stage_of_valid h]
  cases body s <;> rfl

/-- The *requires* check looks at the valid bits alone, so a stage is blind where its body is once they are set. -/
theorem blindAt_stage {op : Instr} {body : State → Except Cause State}
    (h : ((requires op).missing s.valid).isNone = true → BlindAt body s) : BlindAt (stage op body) s := by
  cases hnone : ((requires op).missing s.valid).isNone with
  | false =>
    rw [BlindAt, stage_of_missing (s := s.defined) hnone, stage_of_missing hnone]
    rfl
  | true =>
    rw [BlindAt, stage_eq_mapError (s := s.defined) hnone, stage_eq_mapError hnone, ← except_mapError_map,
      ← except_mapError_map, show (body s.defined).map _ = _ from h hnone]

theorem blindAt_lzwEncode (s : State) : BlindAt stageLzwEncode s := blindAt_stage fun _ => by
  rw [BlindAt, lzwEncodeBody, lzwEncodeBody, State.defined_params, State.defined_inLen, State.inBytes_defined]
  split_ifs
  · rfl
  · cases lzwEncode s.params.ceiling s.params.tokCap s.inBytes <;> rfl

theorem blindAt_parse (s : State) : BlindAt stageParse s := blindAt_stage fun _ => by
  rw [BlindAt, parseBody, parseBody, State.defined_params, State.defined_draws, State.defined_inLen,
    State.inBytes_defined]
  split_ifs
  · rfl
  · cases parseArtifact s.params (Config.freeFreq s.draws) s.inBytes <;> rfl

theorem blindAt_lzwDecode (s : State) : BlindAt stageLzwDecode s := blindAt_stage fun hreq => by
  have htok : s.valid.tok = true := ((Valid.missing_isNone_iff _ _).1 hreq).1 rfl
  rw [BlindAt, lzwDecodeBody, lzwDecodeBody, State.defined_params, State.tokens_defined htok]
  cases lzwDecode s.params.ceiling s.params.outCap s.tokens with
  | error e => rfl
  | ok b => exact congrArg Except.ok (s.defined_putOut b)

theorem blindAt_hufBuild (s : State) : BlindAt stageHufBuild s := blindAt_stage fun hreq => by
  have htok : s.valid.tok = true := ((Valid.missing_isNone_iff _ _).1 hreq).1 rfl
  rw [BlindAt, hufBuildBody, hufBuildBody, State.defined_params, State.tokens_defined htok]
  split_ifs
  · rfl
  · exact congrArg Except.ok (s.defined_dropCodesPacked_putTree _ _ _)

theorem blindAt_hufCodegen (s : State) : BlindAt stageHufCodegen s := blindAt_stage fun hreq => by
  have htree : s.valid.tree = true := ((Valid.missing_isNone_iff _ _).1 hreq).2.1 rfl
  rw [BlindAt, hufCodegenBody_eq, hufCodegenBody_eq, State.tree_defined htree]
  exact congrArg Except.ok (s.defined_putCodes _)

theorem blindAt_pack (s : State) : BlindAt stagePack s := blindAt_stage fun hreq => by
  obtain ⟨htok, -, hcodes, -⟩ := (Valid.missing_isNone_iff _ _).1 hreq
  rw [BlindAt, packBody, packBody, State.defined_params, State.tokens_defined (htok rfl),
    State.codes_defined (hcodes rfl)]
  cases packTokens s.codes s.params.pkCap s.tokens with
  | error e => rfl
  | ok p => exact congrArg Except.ok (s.defined_putPacked p.1 p.2)

theorem blindAt_unpack (s : State) : BlindAt stageUnpack s := blindAt_stage fun hreq => by
  obtain ⟨-, htree, -, hpk⟩ := (Valid.missing_isNone_iff _ _).1 hreq
  rw [BlindAt, unpackBody, unpackBody, State.defined_params, State.tree_defined (htree rfl),
    State.pkBytes_defined (hpk rfl), State.defined_padLen]
  cases unpackTokens s.params.tokCap s.tree s.pkBytes s.padLen.toNat with
  | error e => rfl
  | ok toks => exact congrArg Except.ok (s.defined_putTokens toks)

theorem blindAt_serialize (s : State) : BlindAt stageSerialize s := blindAt_stage fun hreq => by
  obtain ⟨-, htree, -, hpk⟩ := (Valid.missing_isNone_iff _ _).1 hreq
  rw [BlindAt, serializeBody, serializeBody, State.defined_params, State.tree_defined (htree rfl),
    State.pkBytes_defined (hpk rfl), State.defined_padLen, State.defined_nodeCount]
  cases serializeArtifact s.params.outCap s.tree s.nodeCount.toNat s.pkBytes s.padLen.toNat with
  | error e => rfl
  | ok a => exact congrArg Except.ok (s.defined_putOut a)

/-! ### Commands -/

/-- From states of one defined part, what looks at no more comes to outcomes of one defined part. -/
theorem map_defined_eq_of_blindAt {ε : Type} {f : State → Except ε State} (hf : ∀ s, BlindAt f s)
    (h : s.defined = u.defined) : (f s).map State.defined = (f u).map State.defined :=
  calc (f s).map State.defined = (f s.defined).map State.defined := (hf s).symm
    _ = (f u.defined).map State.defined := by rw [h]
    _ = (f u).map State.defined := hf u

theorem blindAt_runStages {fs : List (State → Except CmdError State)} (hfs : ∀ f ∈ fs, ∀ s, BlindAt f s)
    (s : State) : BlindAt (runStages fs) s := by
  induction fs generalizing s with
  | nil => exact congrArg Except.ok s.defined_defined
  | cons f fs ih =>
    obtain ⟨hf, hfs⟩ := List.forall_mem_cons.1 hfs
    have hfirst := hf s
    rw [BlindAt] at hfirst ⊢
    cases hfs' : f s with
    | error e =>
      rw [hfs'] at hfirst
      rw [runStages_cons_error fs hfs', runStages_cons_error fs (except_map_eq_error.1 hfirst)]
    | ok t =>
      rw [hfs'] at hfirst
      obtain ⟨t', ht', heq⟩ := except_map_eq_ok.1 hfirst
      rw [runStages_cons_ok fs hfs', runStages_cons_ok fs ht']
      exact map_defined_eq_of_blindAt (ih hfs) heq

theorem blindAt_compress (s : State) : BlindAt runCompress s := by
  rw [BlindAt, runCompress, runCompress, State.defined_params, State.defined_inLen]
  split_ifs
  · rfl
  · rfl
  · refine blindAt_runStages ?_ s
    simp [blindAt_lzwEncode, blindAt_hufBuild, blindAt_hufCodegen, blindAt_pack, blindAt_serialize]

theorem blindAt_decompress (s : State) : BlindAt runDecompress s := by
  rw [BlindAt, runDecompress, runDecompress, State.defined_params, State.defined_inLen]
  split_ifs
  · rfl
  · refine blindAt_runStages ?_ s
    simp [blindAt_parse, blindAt_unpack, blindAt_lzwDecode]

theorem blindAt_run (i : Instr) (s : State) : BlindAt (run i) s := by
  cases i with
  | compress => exact blindAt_compress s
  | decompress => exact blindAt_decompress s
  | lzwEncode => exact blindAt_lzwEncode s
  | lzwDecode => exact blindAt_lzwDecode s
  | hufBuild => exact blindAt_hufBuild s
  | hufCodegen => exact blindAt_hufCodegen s
  | pack => exact blindAt_pack s
  | unpack => exact blindAt_unpack s
  | serialize => exact blindAt_serialize s
  | parse => exact blindAt_parse s

/-- Settles O48: the two states have one defined part, and no command looks at more. -/
theorem unspecifiedBuffersAreNotRead : Obligations.UnspecifiedBuffersAreNotRead := by
  intro i s u t v heq htok htree hcodes hpk ht hv
  obtain rfl := (exec_next_iff i s t).1 ht
  obtain rfl := (exec_next_iff i u v).1 hv
  have hdefined := State.defined_eq_of_agree heq htok htree hcodes hpk
  exact results_complete_of_map_defined_eq (map_defined_eq_of_blindAt (blindAt_run i) hdefined.symm)

end Sys2Proof.Machine
end

section
/-! SUPPORT. Writes while BUSY: CTRL and STATUS take them, and every other place ignores them
(70_reset_and_hazards.md R1011). -/

namespace Sys2Proof.Machine

section Busy

variable {s : State} (hbusy : s.busy = true)
include hbusy

theorem writeInLen_of_busy (v : Word) : writeInLen s v = s := if_pos hbusy

theorem inWrite_of_busy (off : Nat) (b : Byte) : inWrite s off b = s := if_pos hbusy

/-- Beside CTRL and STATUS no register takes a write while BUSY. -/
theorem regWrite_of_busy {off : Nat} (hctrl : off ≠ 0x004) (hstatus : off ≠ 0x00C) (v : Word) :
    regWrite s off v = s := by
  obtain ⟨hoff, -⟩ | ⟨-, hcmd⟩ | ⟨hoff, -⟩ | ⟨-, hinLen⟩ | ⟨-, -, -, -, hother⟩ := regWrite_cases s off v
  · exact absurd hoff hctrl
  · rw [hcmd, writeCmd_of_busy v hbusy]
  · exact absurd hoff hstatus
  · rw [hinLen, writeInLen_of_busy hbusy]
  · exact hother

/-- No place stores a byte while BUSY: the IN window refuses it, and no other place ever takes one. -/
theorem byteWrite_of_busy (a : Nat) (b : Byte) : byteWrite s a b = s := by
  unfold byteWrite
  split
  · exact inWrite_of_busy hbusy _ b
  · rfl

theorem bytesWrite_of_busy (a : Nat) (v : Word) (n : Nat) : bytesWrite s a v n = s := by
  induction n with
  | zero => rfl
  | succ n ih => rw [bytesWrite, ih, byteWrite_of_busy hbusy]

/-- The step of an admitted write elsewhere than to CTRL and STATUS only uses up its event. -/
theorem step_write_of_busy {addr v : Word} {size : Nat} {rest : List Event}
    (hag : s.agenda = .host (.write addr size v) :: rest) (hadm : AccessAdmitted addr size)
    (hctrl : addr ≠ 0x004#32) (hstatus : addr ≠ 0x00C#32) : step s = .next { s with agenda := rest } := by
  have hrest : State.busy { s with agenda := rest } = true := hbusy
  obtain hpage | hpage := Nat.lt_or_ge addr.toNat 0x1000
  · obtain ⟨hreg, -, halign⟩ := hadm
    obtain rfl := hreg hpage
    rw [step_regWrite hag hpage halign, regWrite_of_busy hrest (fun h => hctrl (BitVec.eq_of_toNat_eq h))
      (fun h => hstatus (BitVec.eq_of_toNat_eq h))]
  · rw [step_bytesWrite hag hadm hpage, bytesWrite_of_busy hrest]

end Busy

/-- Settles O49: BUSY stops every write but those to CTRL and STATUS, which do then what they do in every state. -/
theorem writesWhileBusyAreIgnored : Obligations.WritesWhileBusyAreIgnored := by
  intro s addr v size rest hbusy hag hadm
  obtain ⟨hctrl, hstatus, -⟩ := ctrlAndStatusWrites s v rest
  have ⟨hreg, _⟩ := hadm
  refine ⟨step_write_of_busy hbusy hag hadm, ?ctrl, ?status, ?statusKeeps⟩
  all_goals
    rintro rfl hbit
    obtain rfl := hreg (by decide)
  case ctrl => exact hctrl hag hbit
  case status => rw [hstatus hag, hbit, Bool.not_true, Bool.and_false]
  case statusKeeps => rw [hstatus hag, hbit, Bool.not_false, Bool.and_true]

end Sys2Proof.Machine
end
